-- ==== Sys2Proof/Word.lean ====
section
/-! DEFINITION. The word types of the parser block (00_scope.md R6, R8): a frame byte, a 16-bit field or
frame offset, a 32-bit time or address, a 64-bit result. -/

namespace Sys2Proof

/-- One byte of a frame or of an ERF record (R8). -/
abbrev Byte := BitVec 8

/-- A 16-bit unsigned field, length or frame offset (R6). -/
abbrev Half := BitVec 16

/-- A 32-bit unsigned field: a time input or an IPv4 address as it stands in the header (R6). -/
abbrev Word := BitVec 32

/-- A 64-bit unsigned value: nanoseconds, a widened address, the framer's counter (R6, R84). -/
abbrev Dword := BitVec 64

end Sys2Proof
end

