-- ==== Sys2Proof/Config.lean ====
section
/-! DEFINITION. What one implementation of the block fixes: the named parameters of 00_scope.md R7 and
the framer's `P_ERF_TS_ORDER` (R86), with the spec's defaults, and the one free value the spec leaves
(93_implementation_defined.md I7, I8). The parameters are a field of State that no step writes, so
that a statement about every state is a statement about every setting. -/

namespace Sys2Proof

/-- `P_TS_TIE` (R7, R102): how the timestamp converter breaks an exact tie. -/
inductive TsTie where
  | halfUp
  | halfEven
  deriving DecidableEq, Repr

/-- `P_ERF_TS_ORDER` (R86): the byte order of bytes 0..7 of an ERF header. -/
inductive ByteOrder where
  | big
  | little
  deriving DecidableEq, Repr

/-- The named parameters of R7, in the rule's order, and then `P_ERF_TS_ORDER` of R86. -/
structure Params where
  /-- `FRAME_MAX`: the largest `frame_len` the block accepts. -/
  frameMax : Nat
  /-- `P_PAYLOAD_BOUNDS_CHECK` (D7). -/
  payloadBoundsCheck : Bool
  /-- `P_STRICT_HDR_LEN` (D9, D10). -/
  strictHdrLen : Bool
  /-- `P_UDP_OFF_AS_TCP` (D13, C2). -/
  udpOffAsTcp : Bool
  /-- `P_TS_TIE` (D19). -/
  tsTie : TsTie
  /-- `P_ETHERTYPE_VLAN` (I1). -/
  ethertypeVlan : Half
  /-- `P_ETHERTYPE_IPV4` (I1). -/
  ethertypeIpv4 : Half
  /-- `P_ETHERTYPE_IPV6` (I1). -/
  ethertypeIpv6 : Half
  /-- `P_PROTO_TCP` (I2). -/
  protoTcp : Byte
  /-- `P_PROTO_UDP` (I2). -/
  protoUdp : Byte
  /-- `P_NH_HOPOPT` (I3). -/
  nhHopopt : Byte
  /-- `P_NH_ROUTING` (I3). -/
  nhRouting : Byte
  /-- `P_NH_FRAGMENT` (I3). -/
  nhFragment : Byte
  /-- `P_ERF_TS_ORDER` (R86, D43). -/
  erfTsOrder : ByteOrder
  deriving DecidableEq, Repr

/-- The defaults of R7 and R86. -/
def Params.default : Params where
  frameMax := 65535
  payloadBoundsCheck := true
  strictHdrLen := true
  udpOffAsTcp := false
  tsTie := .halfUp
  ethertypeVlan := 0x8100
  ethertypeIpv4 := 0x0800
  ethertypeIpv6 := 0x86DD
  protoTcp := 6
  protoUdp := 17
  nhHopopt := 0
  nhRouting := 43
  nhFragment := 44
  erfTsOrder := .big

/-- A FREE VALUE: the byte a Sink gets where the spec says 'any value' (I7: past `frame_len`; I8: through
a view kept after the acknowledgement), or for an offset its view does not name (log entry 7). It is applied to the counter `State.free`, which every such
read advances, so no two reads are known to agree. It has no body: nothing can be proved of it. -/
opaque Config.viewByte : Nat → Byte

end Sys2Proof
end

