-- ==== Sys2Proof/Syntax.lean ====
section
/-! DEFINITION. The parse operations of the block and of the framer that feeds it: one constructor for
each row of spec/opcode_table.json, in the table's order (00_scope.md R2; 30_encoding.md section 3).
An operation carries as operand the value that selected it where its row is a default row (the rule
names that value as the operand: R113, R118, R133), the kind a transport write stores (R143) and the
Sink's stop bit (R76). -/

namespace Sys2Proof

/-- The operand `k` of `TransportWrite(k, poff, plen)` (R143): which transport stage runs. -/
inductive Transport where
  | tcp
  | udp
  deriving DecidableEq, Repr

/-- The operations of the opcode table (43 rows). -/
inductive Instr where
  /-- TXN.ACCEPT, R71. -/
  | txnAccept
  /-- TS.CONV, R100. -/
  | tsConv
  /-- ETH.HDR, R108. -/
  | ethHdr
  /-- ETH.VLAN, R109. -/
  | ethVlan
  /-- ETH.IPV4, R111. -/
  | ethIpv4
  /-- ETH.IPV4.INNER, R111. -/
  | ethIpv4Inner
  /-- ETH.IPV6, R112. -/
  | ethIpv6
  /-- ETH.IPV6.INNER, R112. -/
  | ethIpv6Inner
  /-- ETH.QINQ, R114. -/
  | ethQinq
  /-- ETH.OTHER, R113: the ethertype that selected it. -/
  | ethOther (ethertype : Half)
  /-- ETH.OTHER.INNER, R113: the inner ethertype that selected it. -/
  | ethOtherInner (ethertype : Half)
  /-- IP4.HDR, R117. -/
  | ip4Hdr
  /-- IP4.OTHER, R118: the protocol that selected it. -/
  | ip4Other (proto : Byte)
  /-- IP4.MF, R119. -/
  | ip4Mf
  /-- IP4.IHL, R120. -/
  | ip4Ihl
  /-- IP4.ADDR, R121. -/
  | ip4Addr
  /-- IP4.SEGLEN, R122. -/
  | ip4SegLen
  /-- IP4.TOFF, R123. -/
  | ip4TOff
  /-- IP4.TCP, R124. -/
  | ip4Tcp
  /-- IP4.UDP, R125. -/
  | ip4Udp
  /-- IP4.UDP_OFF, R126. -/
  | ip4UdpOff
  /-- IP6.HDR, R128. -/
  | ip6Hdr
  /-- IP6.TCP, R129. -/
  | ip6Tcp
  /-- IP6.HOPOPT, R130. -/
  | ip6Hopopt
  /-- IP6.ROUTING, R131. -/
  | ip6Routing
  /-- IP6.FRAGMENT, R132. -/
  | ip6Fragment
  /-- IP6.OTHER, R133: the next header that selected it. -/
  | ip6Other (nh : Byte)
  /-- TCP.HDR, R136. -/
  | tcpHdr
  /-- TCP.DOFF, R137. -/
  | tcpDoff
  /-- TCP.PAYLOAD, R138. -/
  | tcpPayload
  /-- UDP.HDR, R139. -/
  | udpHdr
  /-- UDP.PAYLOAD, R140. -/
  | udpPayload
  /-- TP.NEGLEN, R141. -/
  | tpNegLen
  /-- TP.BOUNDS, R142. -/
  | tpBounds
  /-- TP.WRITE, R143: the kind it writes. -/
  | tpWrite (k : Transport)
  /-- TXN.DELIVER, R75. -/
  | txnDeliver
  /-- TXN.ACK, R76: the Sink's stop bit. -/
  | txnAck (stop : Bool)
  /-- FR.HDR, R85. -/
  | frHdr
  /-- FR.READ, R87. -/
  | frRead
  /-- FR.TYPE, R91. -/
  | frType
  /-- FR.EXT, R92. -/
  | frExt
  /-- FR.PAD, R94. -/
  | frPad
  /-- FR.ISSUE, R95. -/
  | frIssue
  deriving DecidableEq, Repr

end Sys2Proof
end

