-- ==== Sys2Proof/WellFormed.lean ====
section
/-! DEFINITION. What the spec asks of the parameters (00_scope.md R7; 93_implementation_defined.md I1 to
I3) and of an operation's operand: a default row never stands for a value that another row of its
dispatch takes (30_encoding.md R61 to R64). -/

namespace Sys2Proof

/-- The parameters' own conditions: `FRAME_MAX` ≤ 65535 (R7), the three ethertypes distinct (I1), TCP and
UDP distinct (I2), the next-header values distinct from each other and from TCP (I3). -/
def Params.wf (P : Params) : Bool :=
  decide (P.frameMax ≤ 65535)
    && P.ethertypeVlan != P.ethertypeIpv4
    && P.ethertypeVlan != P.ethertypeIpv6
    && P.ethertypeIpv4 != P.ethertypeIpv6
    && P.protoTcp != P.protoUdp
    && P.nhHopopt != P.nhRouting
    && P.nhHopopt != P.nhFragment
    && P.nhRouting != P.nhFragment
    && P.nhHopopt != P.protoTcp
    && P.nhRouting != P.protoTcp
    && P.nhFragment != P.protoTcp

/-- An ethertype that only the default row of its dispatch takes (R61, R62). -/
def Params.otherEthertype (P : Params) (t : Half) : Bool :=
  t != P.ethertypeVlan && t != P.ethertypeIpv4 && t != P.ethertypeIpv6

/-- A protocol that only IP4.OTHER takes (R63). -/
def Params.otherProto (P : Params) (p : Byte) : Bool :=
  p != P.protoTcp && p != P.protoUdp

/-- A next header that only IP6.OTHER takes (R64). -/
def Params.otherNh (P : Params) (nh : Byte) : Bool :=
  nh != P.protoTcp && nh != P.nhHopopt && nh != P.nhRouting && nh != P.nhFragment

/-- An operation is well formed when a default row carries a value no other row takes. -/
def Instr.wf (P : Params) : Instr → Bool
  | .ethOther t => P.otherEthertype t
  | .ethOtherInner t => P.otherEthertype t
  | .ip4Other p => P.otherProto p
  | .ip6Other nh => P.otherNh nh
  | .txnAccept | .tsConv | .ethHdr | .ethVlan | .ethIpv4 | .ethIpv4Inner | .ethIpv6
  | .ethIpv6Inner | .ethQinq | .ip4Hdr | .ip4Mf | .ip4Ihl | .ip4Addr | .ip4SegLen | .ip4TOff
  | .ip4Tcp | .ip4Udp | .ip4UdpOff | .ip6Hdr | .ip6Tcp | .ip6Hopopt | .ip6Routing
  | .ip6Fragment | .tcpHdr | .tcpDoff | .tcpPayload | .udpHdr | .udpPayload | .tpNegLen
  | .tpBounds | .tpWrite _ | .txnDeliver | .txnAck _ | .frHdr | .frRead | .frType | .frExt
  | .frPad | .frIssue => true

end Sys2Proof
end

