-- ==== Sys2Proof/Decode.lean ====
section
/-! DEFINITION. The dispatch map (30_encoding.md R60 to R66) as a decoder, and its encoder.

The block runs no program (R32): an operation is selected by WHERE the sequencer stands (a `Point`) and,
at a dispatch point, by the header field read there (R2, R61 to R64) and the sampled `cfg_udp`, the one
mode bit that changes decoding (R68). So an encoded operation is a `Selector`: the point, `cfg_udp` and
the selecting bytes as they stand on the wire, most significant first (R33). A point whose rows have
mask 0 'matches every input' (R65): the decoder does not look at the bytes there. -/

namespace Sys2Proof

/-- Where the sequencer (or the framer) stands: the next row or the next dispatch of the opcode table.
The model's own refinement of `seq`, which R18 says no interface can see. -/
inductive Point where
  | accept | tsConv
  | ethHdr | ethType | ethInner
  | ip4Hdr | ip4Flags | ip4Ihl | ip4Addr | ip4SegLen | ip4TOff | ip4Proto
  | ip6Hdr | ip6Nh
  | tcpHdr | tcpDoff | tcpPayload
  | udpHdr | udpPayload
  | tpNegLen | tpBounds | tpWrite
  | deliver | ack
  | frHdr | frRead | frType | frExt | frPad | frIssue
  deriving DecidableEq, Repr

/-- Why a selector is no operation, by name. -/
inductive DecodeError where
  /-- A dispatch point got another number of bytes than its field has. -/
  | selectorLength (p : Point) (n : Nat)
  /-- TP.WRITE was selected by a kind that is neither TCP (1) nor UDP (2) (R22, R143). -/
  | kindCode (b : Byte)
  /-- The acknowledgement byte is neither 0 nor 1 (R76: `stop` is one bit). -/
  | ackByte (b : Byte)
  /-- FR.ISSUE was selected by a record type other than 2 (R60, R95). -/
  | recordType (b : Byte)
  deriving DecidableEq, Repr

/-- An encoded operation: the point, the sampled `cfg_udp`, and the selecting bytes in wire order. -/
structure Selector where
  point : Point
  cfgUdp : Bool
  bytes : List Byte
  deriving DecidableEq, Repr

/-- Two wire bytes as a 16-bit number, the first the more significant (R9, R33). -/
def be16 (hi lo : Byte) : Half := hi ++ lo

/-- The two wire bytes of a 16-bit number. -/
def bytesOf16 (v : Half) : List Byte := [v.extractLsb' 8 8, v.extractLsb' 0 8]

/-- The outer ethertype's dispatch (R61; the order is R108's, then R110's). -/
def decodeEthertype (P : Params) (t : Half) : Instr :=
  if t = P.ethertypeVlan then .ethVlan
  else if t = P.ethertypeIpv4 then .ethIpv4
  else if t = P.ethertypeIpv6 then .ethIpv6
  else .ethOther t

/-- The inner ethertype's dispatch after one tag (R62, R110, R114). -/
def decodeInnerEthertype (P : Params) (t : Half) : Instr :=
  if t = P.ethertypeIpv4 then .ethIpv4Inner
  else if t = P.ethertypeIpv6 then .ethIpv6Inner
  else if t = P.ethertypeVlan then .ethQinq
  else .ethOtherInner t

/-- The IPv4 protocol's dispatch (R63). -/
def decodeProto (P : Params) (cfgUdp : Bool) (p : Byte) : Instr :=
  if p = P.protoTcp then .ip4Tcp
  else if p = P.protoUdp then (if cfgUdp then .ip4Udp else .ip4UdpOff)
  else .ip4Other p

/-- The IPv6 next header's dispatch (R64; the order is R128's). -/
def decodeNh (P : Params) (nh : Byte) : Instr :=
  if nh = P.protoTcp then .ip6Tcp
  else if nh = P.nhHopopt then .ip6Hopopt
  else if nh = P.nhRouting then .ip6Routing
  else if nh = P.nhFragment then .ip6Fragment
  else .ip6Other nh

/-- The decoder: total on every selector, rejecting by name. -/
def decode (P : Params) (sel : Selector) : Except DecodeError Instr :=
  match sel.point, sel.bytes with
  | .accept, _ => .ok .txnAccept
  | .tsConv, _ => .ok .tsConv
  | .ethHdr, _ => .ok .ethHdr
  | .ethType, [hi, lo] => .ok (decodeEthertype P (be16 hi lo))
  | .ethType, bs => .error (.selectorLength .ethType bs.length)
  | .ethInner, [hi, lo] => .ok (decodeInnerEthertype P (be16 hi lo))
  | .ethInner, bs => .error (.selectorLength .ethInner bs.length)
  | .ip4Hdr, _ => .ok .ip4Hdr
  | .ip4Flags, _ => .ok .ip4Mf
  | .ip4Ihl, _ => .ok .ip4Ihl
  | .ip4Addr, _ => .ok .ip4Addr
  | .ip4SegLen, _ => .ok .ip4SegLen
  | .ip4TOff, _ => .ok .ip4TOff
  | .ip4Proto, [p] => .ok (decodeProto P sel.cfgUdp p)
  | .ip4Proto, bs => .error (.selectorLength .ip4Proto bs.length)
  | .ip6Hdr, _ => .ok .ip6Hdr
  | .ip6Nh, [nh] => .ok (decodeNh P nh)
  | .ip6Nh, bs => .error (.selectorLength .ip6Nh bs.length)
  | .tcpHdr, _ => .ok .tcpHdr
  | .tcpDoff, _ => .ok .tcpDoff
  | .tcpPayload, _ => .ok .tcpPayload
  | .udpHdr, _ => .ok .udpHdr
  | .udpPayload, _ => .ok .udpPayload
  | .tpNegLen, _ => .ok .tpNegLen
  | .tpBounds, _ => .ok .tpBounds
  | .tpWrite, [b] =>
    if b = 1 then .ok (.tpWrite .tcp) else if b = 2 then .ok (.tpWrite .udp) else .error (.kindCode b)
  | .tpWrite, bs => .error (.selectorLength .tpWrite bs.length)
  | .deliver, _ => .ok .txnDeliver
  | .ack, [b] =>
    if b = 0 then .ok (.txnAck false) else if b = 1 then .ok (.txnAck true) else .error (.ackByte b)
  | .ack, bs => .error (.selectorLength .ack bs.length)
  | .frHdr, _ => .ok .frHdr
  | .frRead, _ => .ok .frRead
  | .frType, _ => .ok .frType
  | .frExt, [b] => .ok (if b.getLsbD 7 then .frExt else .frPad)
  | .frExt, bs => .error (.selectorLength .frExt bs.length)
  | .frPad, _ => .ok .frPad
  | .frIssue, [b] => if b.extractLsb' 0 7 = 2 then .ok .frIssue else .error (.recordType b)
  | .frIssue, bs => .error (.selectorLength .frIssue bs.length)

/-- The encoder: where the operation's row stands and the bits its row fixes, the bits the row leaves
open at 0 (opcode_table.json's `match`). -/
def encode (P : Params) : Instr → Selector
  | .txnAccept => ⟨.accept, false, []⟩
  | .tsConv => ⟨.tsConv, false, []⟩
  | .ethHdr => ⟨.ethHdr, false, []⟩
  | .ethVlan => ⟨.ethType, false, bytesOf16 P.ethertypeVlan⟩
  | .ethIpv4 => ⟨.ethType, false, bytesOf16 P.ethertypeIpv4⟩
  | .ethIpv4Inner => ⟨.ethInner, false, bytesOf16 P.ethertypeIpv4⟩
  | .ethIpv6 => ⟨.ethType, false, bytesOf16 P.ethertypeIpv6⟩
  | .ethIpv6Inner => ⟨.ethInner, false, bytesOf16 P.ethertypeIpv6⟩
  | .ethQinq => ⟨.ethInner, false, bytesOf16 P.ethertypeVlan⟩
  | .ethOther t => ⟨.ethType, false, bytesOf16 t⟩
  | .ethOtherInner t => ⟨.ethInner, false, bytesOf16 t⟩
  | .ip4Hdr => ⟨.ip4Hdr, false, []⟩
  | .ip4Other p => ⟨.ip4Proto, false, [p]⟩
  | .ip4Mf => ⟨.ip4Flags, false, [0x20]⟩
  | .ip4Ihl => ⟨.ip4Ihl, false, []⟩
  | .ip4Addr => ⟨.ip4Addr, false, []⟩
  | .ip4SegLen => ⟨.ip4SegLen, false, []⟩
  | .ip4TOff => ⟨.ip4TOff, false, []⟩
  | .ip4Tcp => ⟨.ip4Proto, false, [P.protoTcp]⟩
  | .ip4Udp => ⟨.ip4Proto, true, [P.protoUdp]⟩
  | .ip4UdpOff => ⟨.ip4Proto, false, [P.protoUdp]⟩
  | .ip6Hdr => ⟨.ip6Hdr, false, []⟩
  | .ip6Tcp => ⟨.ip6Nh, false, [P.protoTcp]⟩
  | .ip6Hopopt => ⟨.ip6Nh, false, [P.nhHopopt]⟩
  | .ip6Routing => ⟨.ip6Nh, false, [P.nhRouting]⟩
  | .ip6Fragment => ⟨.ip6Nh, false, [P.nhFragment]⟩
  | .ip6Other nh => ⟨.ip6Nh, false, [nh]⟩
  | .tcpHdr => ⟨.tcpHdr, false, []⟩
  | .tcpDoff => ⟨.tcpDoff, false, []⟩
  | .tcpPayload => ⟨.tcpPayload, false, []⟩
  | .udpHdr => ⟨.udpHdr, false, []⟩
  | .udpPayload => ⟨.udpPayload, false, []⟩
  | .tpNegLen => ⟨.tpNegLen, false, []⟩
  | .tpBounds => ⟨.tpBounds, false, []⟩
  | .tpWrite .tcp => ⟨.tpWrite, false, [1]⟩
  | .tpWrite .udp => ⟨.tpWrite, false, [2]⟩
  | .txnDeliver => ⟨.deliver, false, []⟩
  | .txnAck stop => ⟨.ack, false, [if stop then 1 else 0]⟩
  | .frHdr => ⟨.frHdr, false, []⟩
  | .frRead => ⟨.frRead, false, []⟩
  | .frType => ⟨.frType, false, []⟩
  | .frExt => ⟨.frExt, false, [0x80]⟩
  | .frPad => ⟨.frPad, false, []⟩
  | .frIssue => ⟨.frIssue, false, [0x02]⟩

/-- The selector that a bare word of opcode_table.json stands for, at the default parameters. The table
gives several points one word (0x0800 is a row of both ethertype dispatches, 6 of both the protocol
and the next-header dispatch); the first row of the table that has the word is meant, the row with the
most fixed bits first. A row without fixed bits has no word: with no bits at all the first row,
TXN.ACCEPT, is meant. -/
def tableSelector (nbits w : Nat) : Option Selector :=
  if nbits = 0 then some ⟨.accept, false, []⟩
  else if nbits = 16 then some ⟨.ethType, false, bytesOf16 (BitVec.ofNat 16 w)⟩
  else if nbits = 8 then
    let b : Byte := BitVec.ofNat 8 w
    if b = 6 then some ⟨.ip4Proto, false, [b]⟩
    else if b = 17 then some ⟨.ip4Proto, true, [b]⟩
    else if b = 0 ∨ b = 43 ∨ b = 44 then some ⟨.ip6Nh, false, [b]⟩
    else if b.extractLsb' 0 7 = 2 then some ⟨.frIssue, false, [b]⟩
    else if b.getLsbD 7 then some ⟨.frExt, false, [b]⟩
    else if b.getLsbD 5 then some ⟨.ip4Flags, false, [b]⟩
    else some ⟨.ip4Proto, false, [b]⟩
  else none

/-- The operation the decoder reads from a bare word of opcode_table.json (bits numbered as the table
numbers them), at the default parameters. -/
def decodeTableWord (nbits w : Nat) : Option Instr :=
  match tableSelector nbits w with
  | none => none
  | some sel =>
    match decode Params.default sel with
    | .ok i => some i
    | .error _ => none

end Sys2Proof
end

