-- ==== Sys2Proof/Machine/State.lean ====
section
/-! DEFINITION. Everything the spec gives the machine, as plain data (10_state.md; the framer's state from
41_record_framer.md R84, R85), the reasons a step can stop, and the state after reset (R30, R167). -/

namespace Sys2Proof.Machine

/-- The sequencer register `seq` (R17). -/
inductive Seq where
  | idle | eth | ipv4 | ipv6 | tcp | udp | deliver | aborted | stopped
  deriving DecidableEq, Repr

/-- `out.kind` (R22). Code 3 is never written. -/
inductive Kind where
  | none | tcp | udp
  deriving DecidableEq, Repr

/-- `status.outcome` (R25, R145). -/
inductive TxOutcome where
  | none | packet | skip | fatal
  deriving DecidableEq, Repr

/-- The SKIP reasons of R146. The last two are the framer's own; the block never writes them. -/
inductive SkipReason where
  | ethertype | ipv4Proto | ipv6Nh | udpDisabled | frameShort | negativeLength | badHdrLen
  | payloadBounds | skipRecordType | skipExtShort
  deriving DecidableEq, Repr

/-- The FATAL reasons of R147. -/
inductive FatalReason where
  | ipv4Mf | ipv6Tcp | ipv6Hopopt | ipv6Routing | ipv6Fragment
  deriving DecidableEq, Repr

/-- `status.reason` (R25): NONE, a SKIP code or a FATAL code. -/
inductive Reason where
  | none
  | skip (r : SkipReason)
  | fatal (r : FatalReason)
  deriving DecidableEq, Repr

/-- The frame buffer's contents: (offset, byte) pairs, offsets strictly rising, no listed byte equal to
what an unlisted offset reads as (`Memory.unlisted`). Byte-addressed, 16-bit offsets (R31). -/
abbrev Memory := List Host.Cell

/-- The names of the datapath registers, for the fault of R21. -/
inductive Reg where
  | cur | ethertype | vlan | ihlBytes | proto | mf | totalLen | segLen | tOff | nh | thl
  | udpLen | plen | poff
  deriving DecidableEq, Repr

/-- The datapath registers of R19 and R20. `none` is the spec's own 'no value', which R21 asks for and
R71 writes at acceptance; it is not a missing reset value. The two signed lengths are unbounded integers,
as R6 asks. -/
structure Datapath where
  /-- `cur`, 16 bits (R19). -/
  cur : Option Half
  /-- `ethertype`, 16 bits. -/
  ethertype : Option Half
  /-- `vlan`, 1 bit. -/
  vlan : Option Bool
  /-- `ihl_bytes`, 7 bits. -/
  ihlBytes : Option (BitVec 7)
  /-- `proto`, 8 bits. -/
  proto : Option Byte
  /-- `mf`, 1 bit. -/
  mf : Option Bool
  /-- `total_len`, 16 bits. -/
  totalLen : Option Half
  /-- `seg_len`, 18 bits signed. -/
  segLen : Option Int
  /-- `t_off`, 16 bits. -/
  tOff : Option Half
  /-- `nh`, 8 bits. -/
  nh : Option Byte
  /-- `thl`, 7 bits. -/
  thl : Option (BitVec 7)
  /-- `udp_len`, 16 bits. -/
  udpLen : Option Half
  /-- `plen`, 18 bits signed. -/
  plen : Option Int
  /-- `poff`, 16 bits. -/
  poff : Option Half
  deriving DecidableEq, Repr

/-- Every datapath register without a value (R21, R30, R71). -/
def Datapath.noValue : Datapath where
  cur := none
  ethertype := none
  vlan := none
  ihlBytes := none
  proto := none
  mf := none
  totalLen := none
  segLen := none
  tOff := none
  nh := none
  thl := none
  udpLen := none
  plen := none
  poff := none

/-- The output record `out` (R22). -/
structure OutRecord where
  timestamp : Dword
  kind : Kind
  srcAddr : Dword
  dstAddr : Dword
  payloadOff : Half
  payloadLen : Half
  length : Half
  deriving DecidableEq, Repr

/-- Every field of `out` at 0, `out.kind` at NONE (R23, R30). -/
def OutRecord.zero : OutRecord where
  timestamp := 0
  kind := .none
  srcAddr := 0
  dstAddr := 0
  payloadOff := 0
  payloadLen := 0
  length := 0

/-- The status registers (R25). -/
structure Status where
  outcome : TxOutcome
  reason : Reason
  aborted : Bool
  stopped : Bool
  deriving DecidableEq, Repr

/-- The status registers after reset (R25, R30). -/
def Status.zero : Status where
  outcome := .none
  reason := .none
  aborted := false
  stopped := false

/-- A request's inputs (R14), the frame buffer apart. -/
structure Request where
  frameLen : Half
  tsWhole : Word
  tsFrac : Word
  deriving DecidableEq, Repr

/-- Which operation of a record the framer runs next (41_record_framer.md section 2 and 3). -/
inductive Phase where
  /-- No run has been started. -/
  | off
  | hdr | read | type | ext | pad | issue
  /-- FR.ISSUE has presented its request and waits for the transaction to end (R95). -/
  | wait
  /-- The run has ended (R88, R89, R98). -/
  | done
  deriving DecidableEq, Repr

/-- The framer's outcome of its latest record (R83). -/
inductive RecordOutcome where
  /-- No record has ended yet. -/
  | none
  /-- `Packet(DecodedPacket)`. -/
  | packet (r : OutRecord)
  /-- `Skipped`, with the reason code. -/
  | skipped (r : Reason)
  /-- `EndOfStream`. -/
  | endOfStream
  /-- `Truncated(n)`. -/
  | truncated (n : Dword)
  deriving DecidableEq, Repr

/-- How the run stands or ended (R83, R88, R89, R98). -/
inductive RunResult where
  | running
  | endOfStream
  | truncated (n : Dword)
  /-- `UnsupportedFeature(reason)` after a FATAL transaction. -/
  | unsupported (r : Reason)
  /-- The Sink stopped the run. -/
  | stopped
  deriving DecidableEq, Repr

/-- The upstream framer (R84) with the fields its operations read from a record's header (R85). -/
structure Framer where
  /-- The input stream, given from outside. -/
  stream : List Byte
  /-- The stream position. -/
  pos : Nat
  /-- `n`, the records fully read so far, 64 bits. -/
  count : Dword
  /-- `R`, the record buffer; its length is `plen_rec`. -/
  record : List Byte
  phase : Phase
  /-- `frac`. -/
  frac : Word
  /-- `whole`. -/
  whole : Word
  /-- Header byte 8: `ext` is bit 7, `type` bits 6..0. -/
  typeByte : Byte
  /-- `tlen`. -/
  tlen : Half
  /-- `wlen`, read and not used (R97). -/
  wlen : Half
  /-- `k`, the extension blocks passed over (R92). -/
  blocks : Nat
  /-- `base`, where the frame starts in `R` (R92, R94). -/
  base : Nat
  outcome : RecordOutcome
  run : RunResult
  deriving DecidableEq, Repr

/-- The framer before any run (R84: position 0 and `n` 0). -/
def Framer.off : Framer where
  stream := []
  pos := 0
  count := 0
  record := []
  phase := .off
  frac := 0
  whole := 0
  typeByte := 0
  tlen := 0
  wlen := 0
  blocks := 0
  base := 0
  outcome := .none
  run := .running

/-- Why the machine stops with a fault. Both mark a defect of the model (R21, R36; I9, I10) and are
safe: the machine stops where the spec says the case cannot arise. -/
inductive Fault where
  /-- Raised by a read of a datapath register that has no value (R21, I10). -/
  | noValue (r : Reg)
  /-- Raised by `MemRead(o, n)` with `o + n > frame_len` (R36, I9). -/
  | memRead (o n : Nat)
  deriving DecidableEq, Repr

/-- Why the model takes no step. Each is a case the spec gives no step to, so each is safe. -/
inductive Refusal where
  /-- An instruction without a meaning yet, raised by exec's arm. Safe. -/
  | notModelled (mnemonic : String)
  /-- The selector at the sequencer's point is no operation, raised by step. Safe. -/
  | undecodable (e : DecodeError)
  /-- TXN.ACCEPT with no request presented (R71). Safe. -/
  | noRequest
  /-- A request while `seq` is not IDLE and no latch is set (R71, I11). Safe. -/
  | requestWhileBusy
  /-- A request, or the start of a framer run, while the abort latch is set (R26, R155, R172). Safe. -/
  | requestWhileAborted
  /-- A request, or the start of a framer run, while the stop latch is set (R27, R155, R172). Safe. -/
  | requestWhileStopped
  /-- A request with `frame_len` > FRAME_MAX (R15). Safe. -/
  | frameTooLong
  /-- An acknowledgement while `seq` is not DELIVER (R76, I11). Safe. -/
  | ackNotDelivering
  /-- A second acknowledgement of one record, given before TXN.ACK has taken the first (log entry 8).
  Safe. -/
  | ackAlreadyGiven
  /-- A request, or the start of a framer run, while reset is asserted (log entry 9). Safe. -/
  | inReset
  /-- A write of the frame buffer between the presentation of a request and the end of its transaction
  (R45, R169, I5). Safe. -/
  | bufferOwned
  /-- Two producers at once (R13 has one): a host's request or write of the frame buffer during a framer
  run, or the start of a framer run before a host's request and its transaction have ended (log entry 29).
  Safe. -/
  | secondProducer
  /-- A new run while the framer is in a run (R84: a run starts from reset). Safe. -/
  | runInProgress
  deriving DecidableEq, Repr

/-- The state of the block, its inputs, its frame buffer and the framer that feeds it. -/
structure State where
  /-- The parameters (R7); no step writes them. -/
  params : Params
  /-- The reset input (R167). -/
  rst : Bool
  /-- The configuration input `include_udp` (R16). -/
  includeUdp : Bool
  /-- The request presented and not yet accepted (R14). -/
  req : Option Request
  /-- The Sink's acknowledgement given and not yet taken, with its `stop` bit (R76). -/
  ack : Option Bool
  /-- The frame buffer `F` (R31). -/
  frame : Memory
  /-- `seq` (R17). -/
  seq : Seq
  /-- Where in its stage the sequencer stands (the model's own; R18: not visible). -/
  point : Point
  /-- `cfg_udp`, the sampled configuration (R16). -/
  cfgUdp : Bool
  /-- `frame_len`, sampled at acceptance (R14). -/
  frameLen : Half
  /-- `ts_whole`, sampled at acceptance (R14). -/
  tsWhole : Word
  /-- `ts_frac`, sampled at acceptance (R14). -/
  tsFrac : Word
  /-- The datapath registers (R19, R20). -/
  dp : Datapath
  /-- The output record (R22). -/
  out : OutRecord
  /-- The status registers (R25). -/
  status : Status
  /-- The upstream framer (R84). -/
  fr : Framer
  /-- The counter of free values taken so far (the model's own; see `Config.viewByte`). -/
  free : Nat
  deriving DecidableEq, Repr

/-- The machine right after reset (R30, R167), at the default parameters, with no input presented. -/
def State.reset : State where
  params := Params.default
  rst := false
  includeUdp := false
  req := none
  ack := none
  frame := []
  seq := .idle
  point := .accept
  cfgUdp := false
  frameLen := 0
  tsWhole := 0
  tsFrac := 0
  dp := Datapath.noValue
  out := OutRecord.zero
  status := Status.zero
  fr := Framer.off
  free := 0

end Sys2Proof.Machine
end

