-- ==== Sys2Proof/Machine/Ops.lean ====
section
/-! DEFINITION. The shared operations: the frame buffer (20_memory.md), control transfer (40_operation.md
R74), SKIP and FATAL (60_exceptions.md R148, R149: what this block has instead of exceptions), and
reset (70_reset_and_hazards.md R167), the only way back from FATAL (R154). -/

namespace Sys2Proof.Machine

/-- The outcome of one operation. -/
abbrev Result := Host.Outcome State Fault Refusal

/-- What an offset that the buffer does not list reads as (log entry 3: DESIGN CHOICE). -/
def Memory.unlisted : Byte := 0

/-- `F[a]` (R8). -/
def Memory.read : Memory → Nat → Byte
  | [], _ => Memory.unlisted
  | (a', b) :: m, a => if a = a' then b else Memory.read m a

/-- The buffer with `b` at offset `a`, in canonical form. -/
def Memory.write : Memory → Nat → Byte → Memory
  | [], a, b => if b = Memory.unlisted then [] else [(a, b)]
  | (a', b') :: m, a, b =>
    if a < a' then
      (if b = Memory.unlisted then (a', b') :: m else (a, b) :: (a', b') :: m)
    else if a = a' then (if b = Memory.unlisted then m else (a, b) :: m)
    else (a', b') :: Memory.write m a b

/-- The buffer with `bs` from offset `a` on. -/
def Memory.writeBytes : Memory → Nat → List Byte → Memory
  | m, _, [] => m
  | m, a, b :: bs => Memory.writeBytes (Memory.write m a b) (a + 1) bs

/-- The canonical form: offsets strictly rising from `lo`, all 16-bit, no listed byte equal to what an
unlisted offset reads as. -/
def Memory.wfFrom : Nat → Memory → Bool
  | _, [] => true
  | lo, (a, b) :: m =>
    decide (lo ≤ a) && decide (a < 65536) && b != Memory.unlisted && Memory.wfFrom (a + 1) m

/-- The buffer is in its canonical form. -/
def Memory.wf (m : Memory) : Bool := Memory.wfFrom 0 m

/-- The sum of R36, `Σ F[o+i]·2^(8·(n−1−i))`, one byte at a time: the most significant byte lowest (R33). -/
def Memory.beValue (m : Memory) (o : Nat) : Nat → Nat
  | 0 => 0
  | n + 1 => Memory.beValue m o n * 256 + (m.read (o + n)).toNat

/-- `MemRead(o, n)` (R36): its precondition failing is a fault (I9). -/
def memRead (s : State) (o n : Nat) (k : Nat → Result) : Result :=
  if o + n ≤ s.frameLen.toNat then k (s.frame.beValue o n) else .fault (.memRead o n)

/-- `x[reg]` (R11) of a datapath register: a read of 'no value' is a fault (R21, I10). -/
def withReg {α : Type} (r : Reg) (v : Option α) (k : α → Result) : Result :=
  match v with
  | some x => k x
  | none => .fault (.noValue r)

/-- `raise Skip(r)` (R148). -/
def raiseSkip (r : SkipReason) (s : State) : State :=
  { s with
    status := { s.status with outcome := .skip, reason := .skip r }
    seq := .idle
    point := .accept }

/-- `raise Fatal(r)` (R149). -/
def raiseFatal (r : FatalReason) (s : State) : State :=
  { s with
    status := { s.status with outcome := .fatal, reason := .fatal r, aborted := true }
    seq := .aborted
    point := .accept }

/-- `Need(o, n)` (R37). -/
def need (s : State) (o n : Nat) (k : Result) : Result :=
  if o + n > s.frameLen.toNat then .next (raiseSkip .frameShort s) else k

/-- `goto S` (R74): to stage `q`, whose first operation stands at `p`. -/
def goto (q : Seq) (p : Point) (s : State) : State := { s with seq := q, point := p }

/-- The datapath after an operation, and the operation that follows it in the same stage. -/
def advance (d : Datapath) (p : Point) (s : State) : State := { s with dp := d, point := p }

/-- `out.timestamp <- v`, and the Ethernet stage's first operation next (R72, R100). -/
def setTimestamp (v : Dword) (s : State) : State :=
  { s with out := { s.out with timestamp := v }, point := .ethHdr }

/-- `s` with the framer's state `f`. -/
def setFramer (f : Framer) (s : State) : State := { s with fr := f }

/-- A transaction is in progress, from acceptance to its end (R169; DELIVER included). -/
def State.busy (s : State) : Bool :=
  match s.seq with
  | .eth | .ipv4 | .ipv6 | .tcp | .udp | .deliver => true
  | .idle | .aborted | .stopped => false

/-- The producer has given the frame buffer away: from the presentation of a request (R45: it finishes
writing before it presents) to the end of its transaction (R169). -/
def State.bufferTaken (s : State) : Bool := s.busy || s.req.isSome

/-- Reset (R167): the block's state as R30 gives it, the transaction and every handshake abandoned, the
framer back at the start of a run (R84). The parameters, the inputs `include_udp` and reset itself, the
frame buffer and the framer's input stream are not the block's to change. -/
def resetBlock (s : State) : State :=
  { State.reset with
    params := s.params
    rst := s.rst
    includeUdp := s.includeUdp
    frame := s.frame
    fr := { Framer.off with stream := s.fr.stream }
    free := s.free }

end Sys2Proof.Machine
end

