-- ==== Sys2Proof/Machine/Flags.lean ====
section
/-! DEFINITION. The block has no flags register (10_state.md R28); what stands for flags are the status
registers of R25. Their codes (60_exceptions.md R145 to R147), the code of `out.kind` (R22), and which
reasons are the framer's. -/

namespace Sys2Proof.Machine

/-- The code of `out.kind`, 2 bits (R22). -/
def Kind.code : Kind → BitVec 2
  | .none => 0
  | .tcp => 1
  | .udp => 2

/-- The kind a transport write stores (R143). -/
def kindOf : Transport → Kind
  | .tcp => .tcp
  | .udp => .udp

/-- The code of `status.outcome`, 2 bits (R145). -/
def TxOutcome.code : TxOutcome → BitVec 2
  | .none => 0
  | .packet => 1
  | .skip => 2
  | .fatal => 3

/-- The SKIP codes (R146). -/
def SkipReason.code : SkipReason → BitVec 5
  | .ethertype => 1
  | .ipv4Proto => 2
  | .ipv6Nh => 3
  | .udpDisabled => 4
  | .frameShort => 5
  | .negativeLength => 6
  | .badHdrLen => 7
  | .payloadBounds => 8
  | .skipRecordType => 9
  | .skipExtShort => 10

/-- The FATAL codes (R147): bit 4 is set. -/
def FatalReason.code : FatalReason → BitVec 5
  | .ipv4Mf => 17
  | .ipv6Tcp => 18
  | .ipv6Hopopt => 19
  | .ipv6Routing => 20
  | .ipv6Fragment => 21

/-- The code of `status.reason`, 5 bits (R25). -/
def Reason.code : Reason → BitVec 5
  | .none => 0
  | .skip r => r.code
  | .fatal r => r.code

/-- The reasons 9 and 10, which only the framer reports (R146). -/
def SkipReason.framers : SkipReason → Bool
  | .skipRecordType | .skipExtShort => true
  | .ethertype | .ipv4Proto | .ipv6Nh | .udpDisabled | .frameShort | .negativeLength
  | .badHdrLen | .payloadBounds => false

end Sys2Proof.Machine
end

