-- ==== Sys2Proof/Machine/Operands.lean ====
section
/-! DEFINITION. Field assembly: how each value of 30_encoding.md R58 is made from the number `MemRead`
returned, and the byte-list reads of the ERF header (R49, R85, R86). -/

namespace Sys2Proof.Machine

/-- `MemRead(ip, 1)[3:0] · 4`: the IPv4 header length in bytes, 0..60 (R58, R117). -/
def ihlBytesOf (v : Nat) : BitVec 7 := BitVec.ofNat 7 (v % 16 * 4)

/-- `MemRead(ip + 6, 1)[5]`: the more-fragments flag (R58, R119). -/
def mfOf (v : Nat) : Bool := v.testBit 5

/-- `MemRead(t_off + 12, 1)[7:4] · 4`: the TCP header length in bytes, 0..60 (R58, R137). -/
def thlOf (v : Nat) : BitVec 7 := BitVec.ofNat 7 (v / 16 % 16 * 4)

/-- `zext_64` of a 4-byte address (R34, R121). -/
def addrOf (v : Nat) : Dword := (BitVec.ofNat 32 v).setWidth 64

/-- The extension flag, bit 7 of header byte 8 (R49, R85). -/
def Framer.ext (f : Framer) : Bool := f.typeByte.getLsbD 7

/-- The record type, bits 6..0 of header byte 8 (R49, R85). -/
def Framer.recType (f : Framer) : BitVec 7 := f.typeByte.extractLsb' 0 7

/-- `plen_rec`, the length of the record buffer (R87). -/
def Framer.plenRec (f : Framer) : Nat := f.record.length

/-- The bytes left in the stream (R85, R87). -/
def Framer.avail (f : Framer) : Nat := f.stream.length - f.pos

/-- The next `n` bytes of the stream. -/
def Framer.nextBytes (f : Framer) (n : Nat) : List Byte := (f.stream.drop f.pos).take n

/-- A byte list as a big-endian number (R86). -/
def beBytes (bs : List Byte) : Nat := bs.foldl (fun v b => v * 256 + b.toNat) 0

/-- A byte list as a number in the order `P_ERF_TS_ORDER` selects (R86). -/
def orderedBytes (o : ByteOrder) (bs : List Byte) : Nat :=
  match o with
  | .big => beBytes bs
  | .little => beBytes bs.reverse

end Sys2Proof.Machine
end

