-- ==== Sys2Proof/Machine/Ethernet.lean ====
section
/-! DEFINITION. The Ethernet + VLAN stage (43_ethernet_vlan.md). -/

namespace Sys2Proof.Machine

/-- ETH.HDR (R108): the stage entry. -/
def execEthHdr (s : State) : Result :=
  need s 0 14 <|
  memRead s 12 2 fun v =>
  .next (advance
    { s.dp with ethertype := some (BitVec.ofNat 16 v), cur := some 14, vlan := some false }
    .ethType s)

/-- ETH.VLAN (R109): unwraps one tag. -/
def execEthVlan (s : State) : Result :=
  need s 14 4 <|
  memRead s 16 2 fun v =>
  .next (advance
    { s.dp with ethertype := some (BitVec.ofNat 16 v), cur := some 18, vlan := some true }
    .ethInner s)

/-- ETH.IPV4 (R111), untagged. -/
def execEthIpv4 (s : State) : Result := .next (goto .ipv4 .ip4Hdr s)

/-- ETH.IPV4.INNER (R111), after a tag. -/
def execEthIpv4Inner (s : State) : Result := .next (goto .ipv4 .ip4Hdr s)

/-- ETH.IPV6 (R112), untagged. -/
def execEthIpv6 (s : State) : Result := .next (goto .ipv6 .ip6Hdr s)

/-- ETH.IPV6.INNER (R112), after a tag. -/
def execEthIpv6Inner (s : State) : Result := .next (goto .ipv6 .ip6Hdr s)

/-- ETH.QINQ (R114): a second tag is not unwrapped. -/
def execEthQinq (s : State) : Result := .next (raiseSkip .ethertype s)

/-- ETH.OTHER (R113), whatever the ethertype that selected it. -/
def execEthOther (_ethertype : Half) (s : State) : Result := .next (raiseSkip .ethertype s)

/-- ETH.OTHER.INNER (R113), whatever the inner ethertype that selected it. -/
def execEthOtherInner (_ethertype : Half) (s : State) : Result := .next (raiseSkip .ethertype s)

end Sys2Proof.Machine
end

