-- ==== Sys2Proof/Machine/Framer.lean ====
section
/-! DEFINITION. The upstream ERF record framer (41_record_framer.md), the producer that feeds the block. -/

namespace Sys2Proof.Machine

/-- The framer drops its record with `Skipped(r)` and goes on with the next (R83). -/
def skipRecord (r : SkipReason) (f : Framer) : Framer :=
  { f with outcome := .skipped (.skip r), phase := .hdr }

/-- `Truncated(n)`: the run ends (R89). -/
def truncate (f : Framer) : Framer :=
  { f with outcome := .truncated f.count, run := .truncated f.count, phase := .done }

/-- `EndOfStream`: the run ends (R88). -/
def endStream (f : Framer) : Framer :=
  { f with outcome := .endOfStream, run := .endOfStream, phase := .done }

/-- The header fields of R85 from the 16 bytes `h`, the time fields in the order `o` (R86). -/
def readHeader (o : ByteOrder) (h : List Byte) (f : Framer) : Framer :=
  { f with
    frac := BitVec.ofNat 32 (orderedBytes o (h.take 4))
    whole := BitVec.ofNat 32 (orderedBytes o ((h.drop 4).take 4))
    typeByte := BitVec.ofNat 8 (beBytes ((h.drop 8).take 1))
    tlen := BitVec.ofNat 16 (beBytes ((h.drop 10).take 2))
    wlen := BitVec.ofNat 16 (beBytes ((h.drop 14).take 2)) }

/-- FR.HDR (R85, R88, R89). -/
def execFrHdr (s : State) : Result :=
  let f := s.fr
  .next (setFramer
    (if f.avail = 0 then endStream f
    else if f.avail < 16 then truncate f
    else { readHeader s.params.erfTsOrder (f.nextBytes 16) f with pos := f.pos + 16, phase := .read })
    s)

/-- FR.READ (R87, R90). -/
def execFrRead (s : State) : Result :=
  let f := s.fr
  .next (setFramer
    (if f.tlen.toNat < 16 then truncate f
    else if f.avail < f.tlen.toNat - 16 then truncate f
    else { f with
      record := f.nextBytes (f.tlen.toNat - 16)
      pos := f.pos + (f.tlen.toNat - 16)
      count := f.count + 1
      phase := .type })
    s)

/-- FR.TYPE (R91): a record that is not Ethernet is dropped; its bytes are consumed already. -/
def execFrType (s : State) : Result :=
  .next (setFramer
    (if s.fr.recType = 2 then { s.fr with phase := .ext } else skipRecord .skipRecordType s.fr) s)

/-- The chain of R92: how many 8-byte blocks it has, the last the first whose first byte has bit 7
clear; none when the record ends inside the chain. -/
def extChain : List Byte → Option Nat
  | b :: _ :: _ :: _ :: _ :: _ :: _ :: _ :: rest =>
    if b.getLsbD 7 then (extChain rest).map (· + 1) else some 1
  | _ => none

/-- FR.EXT (R92, R93): with the extension flag clear there is no chain. Where the record ends inside the
chain, R92's loop has counted every whole block of the record by then. -/
def execFrExt (s : State) : Result :=
  .next (setFramer
    (if s.fr.ext then
      match extChain s.fr.record with
      | some k => { s.fr with blocks := k, phase := .pad }
      | none => skipRecord .skipExtShort { s.fr with blocks := s.fr.plenRec / 8 }
    else { s.fr with blocks := 0, phase := .pad })
    s)

/-- FR.PAD (R94, R93): 2 pad bytes, after the chain or directly after the header. -/
def execFrPad (s : State) : Result :=
  let k := if s.fr.ext then s.fr.blocks else 0
  let f := { s.fr with blocks := k, base := 8 * k + 2 }
  .next (setFramer
    (if 8 * k + 2 > s.fr.plenRec then skipRecord .skipExtShort f else { f with phase := .issue }) s)

/-- The first half of FR.ISSUE (R95): the frame into the buffer, the request presented. Refused while
the buffer is given away (R45, R169, I5). -/
def frPresent (s : State) : Result :=
  if s.bufferTaken then .refused .bufferOwned
  else
    .next { s with
      frame := s.frame.writeBytes 0 (s.fr.record.drop s.fr.base)
      req := some ⟨BitVec.ofNat 16 (s.fr.plenRec - s.fr.base), s.fr.whole, s.fr.frac⟩
      fr := { s.fr with phase := .wait } }

/-- The second half of FR.ISSUE (R95, R98): once the transaction has ended, its outcome becomes the
framer's; until then the framer waits. A FATAL ends the run, and R83 lists no outcome of the record for
it: the outcome register keeps what the record before it left (log entry 27: DESIGN CHOICE). -/
def frCollect (s : State) : Result :=
  if s.bufferTaken then .next s
  else
    match s.status.outcome with
    | .none => .next s
    | .packet =>
      if s.status.stopped then
        .next (setFramer { s.fr with outcome := .packet s.out, run := .stopped, phase := .done } s)
      else .next (setFramer { s.fr with outcome := .packet s.out, phase := .hdr } s)
    | .skip => .next (setFramer { s.fr with outcome := .skipped s.status.reason, phase := .hdr } s)
    | .fatal =>
      .next (setFramer { s.fr with run := .unsupported s.status.reason, phase := .done } s)

/-- FR.ISSUE (R95). -/
def execFrIssue (s : State) : Result :=
  match s.fr.phase with
  | .wait => frCollect s
  | .off | .hdr | .read | .type | .ext | .pad | .issue | .done => frPresent s

/-- Where the frame byte at `off` stands in the record buffer (R96). -/
def Framer.bufferOffset (f : Framer) (off : Nat) : Nat := f.base + off

/-- Where the frame byte at `off` stands from the start of the record, header included (R96). -/
def Framer.recordOffset (f : Framer) (off : Nat) : Nat := 16 + f.base + off

end Sys2Proof.Machine
end

