-- ==== Sys2Proof/Machine/Ipv4.lean ====
section
/-! DEFINITION. The IPv4 stage (44_ipv4.md), its operations in the order of R116. -/

namespace Sys2Proof.Machine

/-- IP4.HDR (R117). What follows is the protocol filter of R116: IP4.OTHER through the protocol dispatch
for a protocol that is neither TCP nor UDP, otherwise the more-fragments check. -/
def execIp4Hdr (s : State) : Result :=
  withReg .cur s.dp.cur fun ip =>
  need s ip.toNat 20 <|
  memRead s ip.toNat 1 fun v0 =>
  memRead s (ip.toNat + 9) 1 fun v9 =>
  .next (advance
    { s.dp with ihlBytes := some (ihlBytesOf v0), proto := some (BitVec.ofNat 8 v9) }
    (if s.params.otherProto (BitVec.ofNat 8 v9) then .ip4Proto else .ip4Flags) s)

/-- IP4.OTHER (R118), whatever the protocol that selected it. -/
def execIp4Other (_proto : Byte) (s : State) : Result := .next (raiseSkip .ipv4Proto s)

/-- IP4.MF (R119): a fragment aborts the run. -/
def execIp4Mf (s : State) : Result :=
  withReg .cur s.dp.cur fun ip =>
  memRead s (ip.toNat + 6) 1 fun v =>
  .next (if mfOf v then
    raiseFatal .ipv4Mf (advance { s.dp with mf := some (mfOf v) } .ip4Ihl s)
  else advance { s.dp with mf := some (mfOf v) } .ip4Ihl s)

/-- IP4.IHL (R120). -/
def execIp4Ihl (s : State) : Result :=
  withReg .ihlBytes s.dp.ihlBytes fun ihl =>
  .next (if s.params.strictHdrLen ∧ ihl.toNat < 20 then raiseSkip .badHdrLen s
  else advance s.dp .ip4Addr s)

/-- IP4.ADDR (R121). -/
def execIp4Addr (s : State) : Result :=
  withReg .cur s.dp.cur fun ip =>
  memRead s (ip.toNat + 12) 4 fun vs =>
  memRead s (ip.toNat + 16) 4 fun vd =>
  .next { s with
    out := { s.out with srcAddr := addrOf vs, dstAddr := addrOf vd }
    point := .ip4SegLen }

/-- IP4.SEGLEN (R122). -/
def execIp4SegLen (s : State) : Result :=
  withReg .cur s.dp.cur fun ip =>
  withReg .ihlBytes s.dp.ihlBytes fun ihl =>
  memRead s (ip.toNat + 2) 2 fun v =>
  let d := { s.dp with totalLen := some (BitVec.ofNat 16 v), segLen := some ((v : Int) - ihl.toNat) }
  .next (if (v : Int) - ihl.toNat < 0 then raiseSkip .negativeLength (advance d .ip4TOff s)
  else advance d .ip4TOff s)

/-- IP4.TOFF (R123). What follows is the dispatch of R116. -/
def execIp4TOff (s : State) : Result :=
  withReg .cur s.dp.cur fun ip =>
  withReg .ihlBytes s.dp.ihlBytes fun ihl =>
  .next (advance { s.dp with tOff := some (BitVec.ofNat 16 (ip.toNat + ihl.toNat)) } .ip4Proto s)

/-- IP4.TCP (R124). -/
def execIp4Tcp (s : State) : Result := .next (goto .tcp .tcpHdr s)

/-- IP4.UDP (R125). -/
def execIp4Udp (s : State) : Result := .next (goto .udp .udpHdr s)

/-- IP4.UDP_OFF (R126). -/
def execIp4UdpOff (s : State) : Result :=
  .next (if s.params.udpOffAsTcp then goto .tcp .tcpHdr s else raiseSkip .udpDisabled s)

end Sys2Proof.Machine
end

