-- ==== Sys2Proof/Machine/Ipv6.lean ====
section
/-! DEFINITION. The IPv6 stage (45_ipv6.md): it reads the next header and ends the transaction. -/

namespace Sys2Proof.Machine

/-- IP6.HDR (R128): the stage entry; the dispatch of R64 follows. -/
def execIp6Hdr (s : State) : Result :=
  withReg .cur s.dp.cur fun ip =>
  need s ip.toNat 40 <|
  memRead s (ip.toNat + 6) 1 fun v =>
  .next (advance { s.dp with nh := some (BitVec.ofNat 8 v) } .ip6Nh s)

/-- IP6.TCP (R129). -/
def execIp6Tcp (s : State) : Result := .next (raiseFatal .ipv6Tcp s)

/-- IP6.HOPOPT (R130). -/
def execIp6Hopopt (s : State) : Result := .next (raiseFatal .ipv6Hopopt s)

/-- IP6.ROUTING (R131). -/
def execIp6Routing (s : State) : Result := .next (raiseFatal .ipv6Routing s)

/-- IP6.FRAGMENT (R132). -/
def execIp6Fragment (s : State) : Result := .next (raiseFatal .ipv6Fragment s)

/-- IP6.OTHER (R133), whatever the next header that selected it. -/
def execIp6Other (_nh : Byte) (s : State) : Result := .next (raiseSkip .ipv6Nh s)

end Sys2Proof.Machine
end

