-- ==== Sys2Proof/Machine/Timestamp.lean ====
section
/-! DEFINITION. The fixed-point timestamp converter (42_timestamp.md). -/

namespace Sys2Proof.Machine

/-- `p / 2^32` rounded to the nearest integer, an exact tie as `P_TS_TIE` says (R100, R102). The literals
are 2^32 and 2^31. -/
def roundQuotient (tie : TsTie) (p : Nat) : Nat :=
  let q := p / 4294967296
  let r := p % 4294967296
  if r > 2147483648 then q + 1
  else if r < 2147483648 then q
  else
    match tie with
    | .halfUp => q + 1
    | .halfEven => q + q % 2

/-- `frac_ns` of R100: `frac · 10^9 / 2^32`, rounded. -/
def fracNs (tie : TsTie) (frac : Nat) : Nat := roundQuotient tie (frac * 1000000000)

/-- The nearest number of at most 53 significant bits, a tie to the even one: what binary64 makes of the
significand `m` of a result that neither overflows nor is subnormal (R103). -/
def binary64Round (m : Nat) : Nat :=
  let u := 2 ^ (Nat.log2 m + 1 - 53)
  let q := m / u
  let r := m % u
  if 2 * r > u then (q + 1) * u
  else if 2 * r < u then q * u
  else (q + q % 2) * u

/-- The double-precision computation of R103, `round(frac / 2^32 * 1e9)`: the division only moves the binary
point, then one rounded product, then `round`. Not what TS.CONV does; R103 says that the two agree. -/
def fracNsDouble (tie : TsTie) (frac : Nat) : Nat :=
  roundQuotient tie (binary64Round (binary64Round frac * 1000000000))

/-- `TS(ts_whole, ts_frac)` (R100): nanoseconds. -/
def timestampNs (tie : TsTie) (whole frac : Word) : Dword :=
  BitVec.ofNat 64 (whole.toNat * 1000000000 + fracNs tie frac.toNat)

/-- TS.CONV (R100, R72): writes `out.timestamp`; it cannot fail. -/
def execTsConv (s : State) : Result :=
  .next (setTimestamp (timestampNs s.params.tsTie s.tsWhole s.tsFrac) s)

end Sys2Proof.Machine
end

