-- ==== Sys2Proof/Machine/Transport.lean ====
section
/-! DEFINITION. The TCP and UDP stages and what they share (46_tcp_udp.md). -/

namespace Sys2Proof.Machine

/-- TCP.HDR (R136): the stage entry. -/
def execTcpHdr (s : State) : Result :=
  withReg .tOff s.dp.tOff fun t =>
  need s t.toNat 20 <|
  .next (advance s.dp .tcpDoff s)

/-- TCP.DOFF (R137), with the strict check. With `P_STRICT_HDR_LEN` false the header may start inside the
IPv4 header (R120), and the byte is read again although R35 has each byte read once (log entry 31: DESIGN
CHOICE). -/
def execTcpDoff (s : State) : Result :=
  withReg .tOff s.dp.tOff fun t =>
  memRead s (t.toNat + 12) 1 fun v =>
  let s' := advance { s.dp with thl := some (thlOf v) } .tcpPayload s
  .next (if s.params.strictHdrLen ∧ (thlOf v).toNat < 20 then raiseSkip .badHdrLen s'
  else s')

/-- TCP.PAYLOAD (R138). `plen` and `poff` are written together, as R138 has it, and so before the check of
TP.NEGLEN, after which R136 writes `poff` (log entry 28: DESIGN CHOICE). -/
def execTcpPayload (s : State) : Result :=
  withReg .segLen s.dp.segLen fun seg =>
  withReg .thl s.dp.thl fun thl =>
  withReg .tOff s.dp.tOff fun t =>
  .next (advance
    { s.dp with plen := some (seg - thl.toNat), poff := some (BitVec.ofNat 16 (t.toNat + thl.toNat)) }
    .tpNegLen s)

/-- UDP.HDR (R139): the stage entry. With `P_STRICT_HDR_LEN` false the header may start inside the IPv4
header (R120), and bytes are read again although R35 has each byte read once (log entry 31: DESIGN
CHOICE). -/
def execUdpHdr (s : State) : Result :=
  withReg .tOff s.dp.tOff fun t =>
  need s t.toNat 8 <|
  memRead s (t.toNat + 4) 2 fun v =>
  .next (advance { s.dp with udpLen := some (BitVec.ofNat 16 v) } .udpPayload s)

/-- UDP.PAYLOAD (R140). `plen` and `poff` are written together, as R140 has it, and so before the check of
TP.NEGLEN, after which R139 writes `poff` (log entry 28: DESIGN CHOICE). -/
def execUdpPayload (s : State) : Result :=
  withReg .udpLen s.dp.udpLen fun len =>
  withReg .tOff s.dp.tOff fun t =>
  .next (advance
    { s.dp with plen := some ((len.toNat : Int) - 8), poff := some (BitVec.ofNat 16 (t.toNat + 8)) }
    .tpNegLen s)

/-- TP.NEGLEN (R141). -/
def execTpNegLen (s : State) : Result :=
  withReg .plen s.dp.plen fun plen =>
  .next (if plen < 0 then raiseSkip .negativeLength s else advance s.dp .tpBounds s)

/-- TP.BOUNDS (R142). -/
def execTpBounds (s : State) : Result :=
  withReg .poff s.dp.poff fun poff =>
  withReg .plen s.dp.plen fun plen =>
  .next (if s.params.payloadBoundsCheck ∧ (poff.toNat : Int) + plen > s.frameLen.toNat then
    raiseSkip .payloadBounds s
  else advance s.dp .tpWrite s)

/-- TP.WRITE (R143). -/
def execTpWrite (k : Transport) (s : State) : Result :=
  withReg .poff s.dp.poff fun poff =>
  withReg .plen s.dp.plen fun plen =>
  .next { s with
    out := { s.out with
      kind := kindOf k
      payloadOff := poff
      payloadLen := BitVec.ofInt 16 plen
      length := BitVec.ofInt 16 plen }
    point := .deliver }

end Sys2Proof.Machine
end

