-- ==== Sys2Proof/Machine/Txn.lean ====
section
/-! DEFINITION. The transaction's own operations (40_operation.md): ACCEPT, DELIVER, ACK. -/

namespace Sys2Proof.Machine

/-- Why a request is not accepted, if it is not: R71's precondition, term by term (R15, R26, R27, I11). -/
def acceptRefusal (s : State) (r : Request) : Option Refusal :=
  if s.status.aborted then some .requestWhileAborted
  else if s.status.stopped then some .requestWhileStopped
  else if s.seq ≠ .idle then some .requestWhileBusy
  else if s.params.frameMax < r.frameLen.toNat then some .frameTooLong
  else none

/-- The state right after acceptance (R71): the inputs sampled (R14, R16), `out` cleared (R23), every
datapath register without a value (R21), the Ethernet stage entered with TS.CONV first (R72). -/
def acceptState (r : Request) (s : State) : State :=
  { s with
    req := none
    cfgUdp := s.includeUdp
    frameLen := r.frameLen
    tsWhole := r.tsWhole
    tsFrac := r.tsFrac
    dp := Datapath.noValue
    out := OutRecord.zero
    seq := .eth
    point := .tsConv }

/-- TXN.ACCEPT (R71). -/
def execTxnAccept (s : State) : Result :=
  match s.req with
  | none => .refused .noRequest
  | some r =>
    match acceptRefusal s r with
    | some e => .refused e
    | none => .next (acceptState r s)

/-- TXN.DELIVER (R75). -/
def execTxnDeliver (s : State) : Result :=
  .next { s with
    status := { s.status with outcome := .packet, reason := .none }
    seq := .deliver
    point := .ack }

/-- TXN.ACK (R76, R77). -/
def execTxnAck (stop : Bool) (s : State) : Result :=
  if s.seq ≠ .deliver then .refused .ackNotDelivering
  else if stop then
    .next { s with
      ack := none
      status := { s.status with stopped := true }
      seq := .stopped
      point := .accept }
  else .next { s with ack := none, seq := .idle, point := .accept }

end Sys2Proof.Machine
end

