-- ==== Sys2Proof/Machine/Dispatch.lean ====
section
/-! DEFINITION. One arm for each row of spec/opcode_table.json. -/

namespace Sys2Proof.Machine

def exec (i : Instr) (s : State) : Host.Outcome State Fault Refusal :=
  match i with
  | .txnAccept => Sys2Proof.Machine.execTxnAccept s
  | .tsConv => Sys2Proof.Machine.execTsConv s
  | .ethHdr => Sys2Proof.Machine.execEthHdr s
  | .ethVlan => Sys2Proof.Machine.execEthVlan s
  | .ethIpv4 => Sys2Proof.Machine.execEthIpv4 s
  | .ethIpv4Inner => Sys2Proof.Machine.execEthIpv4Inner s
  | .ethIpv6 => Sys2Proof.Machine.execEthIpv6 s
  | .ethIpv6Inner => Sys2Proof.Machine.execEthIpv6Inner s
  | .ethQinq => Sys2Proof.Machine.execEthQinq s
  | .ethOther t => Sys2Proof.Machine.execEthOther t s
  | .ethOtherInner t => Sys2Proof.Machine.execEthOtherInner t s
  | .ip4Hdr => Sys2Proof.Machine.execIp4Hdr s
  | .ip4Other p => Sys2Proof.Machine.execIp4Other p s
  | .ip4Mf => Sys2Proof.Machine.execIp4Mf s
  | .ip4Ihl => Sys2Proof.Machine.execIp4Ihl s
  | .ip4Addr => Sys2Proof.Machine.execIp4Addr s
  | .ip4SegLen => Sys2Proof.Machine.execIp4SegLen s
  | .ip4TOff => Sys2Proof.Machine.execIp4TOff s
  | .ip4Tcp => Sys2Proof.Machine.execIp4Tcp s
  | .ip4Udp => Sys2Proof.Machine.execIp4Udp s
  | .ip4UdpOff => Sys2Proof.Machine.execIp4UdpOff s
  | .ip6Hdr => Sys2Proof.Machine.execIp6Hdr s
  | .ip6Tcp => Sys2Proof.Machine.execIp6Tcp s
  | .ip6Hopopt => Sys2Proof.Machine.execIp6Hopopt s
  | .ip6Routing => Sys2Proof.Machine.execIp6Routing s
  | .ip6Fragment => Sys2Proof.Machine.execIp6Fragment s
  | .ip6Other nh => Sys2Proof.Machine.execIp6Other nh s
  | .tcpHdr => Sys2Proof.Machine.execTcpHdr s
  | .tcpDoff => Sys2Proof.Machine.execTcpDoff s
  | .tcpPayload => Sys2Proof.Machine.execTcpPayload s
  | .udpHdr => Sys2Proof.Machine.execUdpHdr s
  | .udpPayload => Sys2Proof.Machine.execUdpPayload s
  | .tpNegLen => Sys2Proof.Machine.execTpNegLen s
  | .tpBounds => Sys2Proof.Machine.execTpBounds s
  | .tpWrite k => Sys2Proof.Machine.execTpWrite k s
  | .txnDeliver => Sys2Proof.Machine.execTxnDeliver s
  | .txnAck stop => Sys2Proof.Machine.execTxnAck stop s
  | .frHdr => Sys2Proof.Machine.execFrHdr s
  | .frRead => Sys2Proof.Machine.execFrRead s
  | .frType => Sys2Proof.Machine.execFrType s
  | .frExt => Sys2Proof.Machine.execFrExt s
  | .frPad => Sys2Proof.Machine.execFrPad s
  | .frIssue => Sys2Proof.Machine.execFrIssue s

end Sys2Proof.Machine
end

