-- ==== Sys2Proof/Machine/Sequencer.lean ====
section
/-! DEFINITION. What the machine does next: the block's sequencer, the handshakes and the framer in the
one order of a 'fully single-threaded, synchronous' system (10_state.md R13, R17; 40_operation.md R73;
20_memory.md R45), the selector it fetches there, and the placing of an encoded operation where it is
fetched. -/

namespace Sys2Proof.Machine

/-- The point of the framer's next operation, if it has one. -/
def Phase.point : Phase → Option Point
  | .off | .wait | .done => none
  | .hdr => some .frHdr
  | .read => some .frRead
  | .type => some .frType
  | .ext => some .frExt
  | .pad => some .frPad
  | .issue => some .frIssue

/-- A handshake presented to a block that is in no stage: a request, else an acknowledgement. -/
def handshakePoint (s : State) : Option Point :=
  if s.req.isSome then some .accept
  else if s.ack.isSome then some .ack
  else none

/-- The framer waits and no request is pending, so the transaction it issued has ended (R95). -/
def framerCollects (s : State) : Bool := s.fr.phase == .wait && s.req.isNone

/-- Where the next operation stands; none while every agent waits. In a stage the sequencer runs on
(R73). In DELIVER the block waits for the Sink (R76). In IDLE it takes a request, and without one the
framer goes on (R83). After a latch nothing is accepted and the framer reads no further record (R98). -/
def nextPoint (s : State) : Option Point :=
  match s.seq with
  | .eth | .ipv4 | .ipv6 | .tcp | .udp => some s.point
  | .deliver => if s.ack.isSome then some .ack else if s.req.isSome then some .accept else none
  | .idle =>
    if framerCollects s then some .frIssue
    else match handshakePoint s with
      | some p => some p
      | none => s.fr.phase.point
  | .aborted | .stopped => if framerCollects s then some .frIssue else handshakePoint s

/-- The kind code TP.WRITE is selected by: the stage that runs (R143, R22). -/
def stageKind : Seq → Byte
  | .tcp => 1
  | .udp => 2
  | .idle | .eth | .ipv4 | .ipv6 | .deliver | .aborted | .stopped => 0

/-- A datapath register's bytes as a selector; 'no value' is the fault of R21. -/
def regBytes {α : Type} (r : Reg) (v : Option α) (bytes : α → List Byte) : Except Fault (List Byte) :=
  match v with
  | some x => .ok (bytes x)
  | none => .error (.noValue r)

/-- The selecting bytes at a point: the register that holds the dispatch field (R61 to R64), the
framer's type byte (R60), the running stage's kind, the Sink's stop bit. Points with one row select by
nothing (R65). -/
def selectorBytes (s : State) : Point → Except Fault (List Byte)
  | .ethType => regBytes .ethertype s.dp.ethertype bytesOf16
  | .ethInner => regBytes .ethertype s.dp.ethertype bytesOf16
  | .ip4Proto => regBytes .proto s.dp.proto fun p => [p]
  | .ip6Nh => regBytes .nh s.dp.nh fun p => [p]
  | .tpWrite => .ok [stageKind s.seq]
  | .ack =>
    match s.ack with
    | some stop => .ok [if stop then 1 else 0]
    | none => .ok []
  | .frExt => .ok [s.fr.typeByte]
  | .frIssue => .ok [s.fr.typeByte]
  | .accept | .tsConv | .ethHdr | .ip4Hdr | .ip4Flags | .ip4Ihl | .ip4Addr | .ip4SegLen
  | .ip4TOff | .ip6Hdr | .tcpHdr | .tcpDoff | .tcpPayload | .udpHdr | .udpPayload | .tpNegLen
  | .tpBounds | .deliver | .frHdr | .frRead | .frType | .frPad => .ok []

/-- The selector at a point: the fetch. -/
def fetch (s : State) (p : Point) : Except Fault Selector :=
  match selectorBytes s p with
  | .error f => .error f
  | .ok bs => .ok ⟨p, s.cfgUdp, bs⟩

/-- The frame length a placed operation finds, so that its reads lie inside the frame. -/
def placedLen : Half := 64

/-- A 16-bit number from the first two bytes of a selector. -/
def selHalf (sel : Selector) : Half := be16 (sel.bytes.getD 0 0) (sel.bytes.getD 1 0)

/-- The first byte of a selector. -/
def selByte (sel : Selector) : Byte := sel.bytes.getD 0 0

/-- `s` inside stage `q` at `p`, in a transaction on an untagged frame of `placedLen` bytes. -/
def placeInStage (q : Seq) (p : Point) (cfgUdp : Bool) (s : State) : State :=
  { s with rst := false, seq := q, point := p, cfgUdp := cfgUdp, frameLen := placedLen,
           dp := { s.dp with cur := some 14 } }

/-- `s` with an encoded operation stored where the next step fetches it: the dispatch field in the frame
and in the register that holds it, or the framer's type byte, with the sequencer at its point. Only the
points that `tableSelector` gives a word to are placed; any other selector leaves `s` as it is. -/
def placeSelector (sel : Selector) (s : State) : State :=
  match sel.point with
  | .accept => { s with rst := false, seq := .idle, req := some (s.req.getD ⟨0, 0, 0⟩) }
  | .ethType =>
    let t := placeInStage .eth .ethType sel.cfgUdp s
    { t with dp := { t.dp with ethertype := some (selHalf sel), vlan := some false },
             frame := t.frame.writeBytes 12 sel.bytes }
  | .ip4Proto =>
    let t := placeInStage .ipv4 .ip4Proto sel.cfgUdp s
    { t with dp := { t.dp with proto := some (selByte sel) }, frame := t.frame.writeBytes 23 sel.bytes }
  | .ip4Flags =>
    let t := placeInStage .ipv4 .ip4Flags sel.cfgUdp s
    { t with frame := t.frame.writeBytes 20 sel.bytes }
  | .ip6Nh =>
    let t := placeInStage .ipv6 .ip6Nh sel.cfgUdp s
    { t with dp := { t.dp with nh := some (selByte sel) }, frame := t.frame.writeBytes 20 sel.bytes }
  | .frExt =>
    { s with rst := false, seq := .idle, req := none, ack := none,
             fr := { s.fr with phase := .ext, typeByte := selByte sel } }
  | .frIssue =>
    { s with rst := false, seq := .idle, req := none, ack := none,
             fr := { s.fr with phase := .issue, typeByte := selByte sel } }
  | .tsConv | .ethHdr | .ethInner | .ip4Hdr | .ip4Ihl | .ip4Addr | .ip4SegLen | .ip4TOff | .ip6Hdr
  | .tcpHdr | .tcpDoff | .tcpPayload | .udpHdr | .udpPayload | .tpNegLen | .tpBounds | .tpWrite
  | .deliver | .ack | .frHdr | .frRead | .frType | .frPad => s

/-- `placeSelector` of the selector a bare word of opcode_table.json stands for. -/
def placeTableWord (s : State) (nbits w : Nat) : State :=
  match tableSelector nbits w with
  | some sel => placeSelector sel s
  | none => s

end Sys2Proof.Machine
end

