-- ==== Sys2Proof/Machine/Step.lean ====
section
/-! DEFINITION. One step of the machine: reset while it is asserted (R167), else the one operation whose
turn it is; a machine whose agents all wait stays as it is (R166, R175). -/

namespace Sys2Proof.Machine

/-- Fetch at `p`, decode, execute. -/
def stepAt (p : Point) (s : State) : Host.Outcome State Fault Refusal :=
  match fetch s p with
  | .error f => .fault f
  | .ok sel =>
    match decode s.params sel with
    | .error e => .refused (.undecodable e)
    | .ok i => exec i s

def step (s : State) : Host.Outcome State Fault Refusal :=
  if s.rst then .next (resetBlock s)
  else
    match nextPoint s with
    | none => .next s
    | some p => stepAt p s

/-- `s` with the operation that a bare word of opcode_table.json stands for placed where step fetches
its next one. -/
def State.withFetchWord (s : State) (nbits w : Nat) : State := placeTableWord s nbits w

end Sys2Proof.Machine
end

