-- ==== Sys2Proof/Machine/Agents.lean ====
section
/-! DEFINITION. The other agents' own steps (10_state.md R13): the producer, the Sink and the integrator,
and what each may read (R24, R25, R41, R42, R160). An input these steps do not give is not given. -/

namespace Sys2Proof.Machine

/-- What a producer may do (R13, R160, R168). -/
inductive ProducerAct where
  /-- Write one byte of the frame buffer. -/
  | writeFrame (o : Half) (b : Byte)
  /-- Drive `include_udp` (R16). -/
  | setIncludeUdp (v : Bool)
  /-- Present a request (R14). -/
  | present (r : Request)
  /-- Start the ERF framer on a stream (R84). -/
  | startRun (stream : List Byte)
  deriving DecidableEq, Repr

/-- A framer run is in progress: the framer is the producer (R13, R83). -/
def Framer.inRun (f : Framer) : Bool :=
  match f.phase with
  | .off | .done => false
  | .hdr | .read | .type | .ext | .pad | .issue | .wait => true

/-- The producer's step. A write after the presentation of a request and before the end of its transaction
is refused (R45, R169, I5), and so is a request the block would not accept (R15, R155, I11). While reset is
asserted no request and no run is taken (log entry 9: DESIGN CHOICE; R168 has them follow reset). The
producer is the framer or a host standing in for it (R13): during a framer run a host's request or write is
refused, and a run does not start while the buffer is given away (log entry 29: DESIGN CHOICE), so a waiting
framer collects the outcome of no request but its own (R95, R156). After a latch a run does not start, since
R172 has reset come first (log entry 24: DESIGN CHOICE). -/
def producerStep (a : ProducerAct) (s : State) : Result :=
  match a with
  | .writeFrame o b =>
    if s.bufferTaken then .refused .bufferOwned
    else if s.fr.inRun then .refused .secondProducer
    else .next { s with frame := s.frame.write o.toNat b }
  | .setIncludeUdp v => .next { s with includeUdp := v }
  | .present r =>
    match acceptRefusal s r with
    | some e => .refused e
    | none =>
      if s.rst then .refused .inReset
      else if s.fr.inRun then .refused .secondProducer
      else .next { s with req := some r }
  | .startRun bs =>
    if s.rst then .refused .inReset
    else if s.fr.phase ≠ .off then .refused .runInProgress
    else if s.bufferTaken then .refused .secondProducer
    else if s.status.aborted then .refused .requestWhileAborted
    else if s.status.stopped then .refused .requestWhileStopped
    else .next { s with fr := { Framer.off with stream := bs, phase := .hdr } }

/-- What the Sink may do (R13, R76, R158). -/
inductive SinkAct where
  | acknowledge (stop : Bool)
  /-- The Sink raises an error: the same as `stop` = 1 (R158). -/
  | fail
  deriving DecidableEq, Repr

/-- The Sink's step: outside DELIVER an acknowledgement has no step (R76, I11). A record has one: a second
one, before TXN.ACK has taken the first, is refused and changes nothing, so that a stop or a failure cannot
be withdrawn (log entry 8: DESIGN CHOICE). -/
def sinkStep (a : SinkAct) (s : State) : Result :=
  if s.seq ≠ .deliver then .refused .ackNotDelivering
  else if s.ack.isSome then .refused .ackAlreadyGiven
  else
    match a with
    | .acknowledge stop => .next { s with ack := some stop }
    | .fail => .next { s with ack := some true }

/-- The integrator asserts or releases reset at any time (R167). Asserting it takes effect at once, so that
even a pulse between two steps of the block resets it. -/
def integratorStep (asserted : Bool) (s : State) : Result :=
  .next { (if asserted then resetBlock s else s) with rst := asserted }

/-- What the response carries (R14, D1). -/
structure Response where
  outcome : TxOutcome
  reason : Reason
  deriving DecidableEq, Repr

/-- The response the requester reads: the outcome and the reason (R14, R25). The latches are no part of it
and show only as the refusal of every later request (R29; log entry 30). -/
def response (s : State) : Response := ⟨s.status.outcome, s.status.reason⟩

/-- The Sink may look at `out` and the payload: in DELIVER (R24), until its acknowledgement (R42, R170). That
the acknowledgement ends the view when the Sink gives it, and not first when TXN.ACK takes it, is the
model's choice (log entry 8: DESIGN CHOICE). -/
def viewValid (s : State) : Bool := s.seq == .deliver && s.ack.isNone

/-- The output record as the Sink sees it (R24). -/
def sinkRecord (s : State) : Option OutRecord := if viewValid s then some s.out else none

/-- The frame offset of byte `i` of the payload view; the view has `payload_len` bytes (R24, R41). -/
def viewOffset (s : State) (i : Nat) : Option Nat :=
  if i < s.out.payloadLen.toNat then some (s.out.payloadOff.toNat + i) else none

/-- Frame offset `o` is a byte of the payload view (R24, R41), all the Sink may read of the frame (R160). -/
def inView (s : State) (o : Nat) : Bool :=
  decide (s.out.payloadOff.toNat ≤ o) &&
    decide (o < s.out.payloadOff.toNat + s.out.payloadLen.toNat)

/-- What the Sink gets when it reads frame offset `o`: the byte, where a valid view names it and it lies
inside the frame (R41, R42). Past `frame_len` (I7) and without a valid view (I8) it gets any value; an
offset the view does not name is a read R160 does not give the Sink, and the value is free as well (log
entry 7: DESIGN CHOICE). -/
def sinkReadByte (o : Nat) (s : State) : Byte × State :=
  if viewValid s && inView s o && decide (o < s.frameLen.toNat) then (s.frame.read o, s)
  else (Config.viewByte s.free, { s with free := s.free + 1 })

end Sys2Proof.Machine
end

