-- ==== Sys2Proof/Machine/Parse.lean ====
section
/-! DEFINITION. The parse as the one function R79 says it is, written from the stage pseudocode as it
stands whole in R108 to R110, R116, R128, R136 and R139: the block seen from its interface, where R18
lets acceptance to the end of the parse be one step. It is NOT what step runs; that the operations of
the opcode table, one after the other, compute it is stated in Obligations. -/

namespace Sys2Proof.Machine

/-- What a transaction leaves at its end (R79). -/
structure ParseResult where
  outcome : TxOutcome
  reason : Reason
  out : OutRecord
  deriving DecidableEq, Repr

/-- `raise Skip(r)` with `out` as written so far. -/
def parseSkip (r : SkipReason) (out : OutRecord) : ParseResult := ⟨.skip, .skip r, out⟩

/-- `raise Fatal(r)` with `out` as written so far. -/
def parseFatal (r : FatalReason) (out : OutRecord) : ParseResult := ⟨.fatal, .fatal r, out⟩

/-- The end shared by both transport stages: R141, R142, R143, deliver. -/
def parsePayload (P : Params) (len : Nat) (k : Kind) (poff : Nat) (plen : Int) (out : OutRecord) :
    ParseResult :=
  if plen < 0 then parseSkip .negativeLength out
  else if P.payloadBoundsCheck ∧ (poff : Int) + plen > len then parseSkip .payloadBounds out
  else
    ⟨.packet, .none,
      { out with
        kind := k
        payloadOff := BitVec.ofNat 16 poff
        payloadLen := BitVec.ofInt 16 plen
        length := BitVec.ofInt 16 plen }⟩

/-- The TCP stage (R136). -/
def parseTcp (P : Params) (F : Memory) (len tOff : Nat) (segLen : Int) (out : OutRecord) :
    ParseResult :=
  if tOff + 20 > len then parseSkip .frameShort out
  else
    let thl := (F.read (tOff + 12)).toNat / 16 * 4
    if P.strictHdrLen ∧ thl < 20 then parseSkip .badHdrLen out
    else parsePayload P len .tcp (tOff + thl) (segLen - thl) out

/-- The UDP stage (R139). -/
def parseUdp (P : Params) (F : Memory) (len tOff : Nat) (out : OutRecord) : ParseResult :=
  if tOff + 8 > len then parseSkip .frameShort out
  else parsePayload P len .udp (tOff + 8) ((F.beValue (tOff + 4) 2 : Int) - 8) out

/-- The IPv4 stage (R116). -/
def parseIpv4 (P : Params) (cfgUdp : Bool) (F : Memory) (len ip : Nat) (out : OutRecord) :
    ParseResult :=
  if ip + 20 > len then parseSkip .frameShort out
  else
    let ihl := (F.read ip).toNat % 16 * 4
    let proto := F.read (ip + 9)
    if proto ≠ P.protoTcp ∧ proto ≠ P.protoUdp then parseSkip .ipv4Proto out
    else if (F.read (ip + 6)).getLsbD 5 then parseFatal .ipv4Mf out
    else if P.strictHdrLen ∧ ihl < 20 then parseSkip .badHdrLen out
    else
      let out' := { out with
        srcAddr := BitVec.ofNat 64 (F.beValue (ip + 12) 4)
        dstAddr := BitVec.ofNat 64 (F.beValue (ip + 16) 4) }
      let segLen : Int := (F.beValue (ip + 2) 2 : Int) - ihl
      if segLen < 0 then parseSkip .negativeLength out'
      else if proto = P.protoTcp then parseTcp P F len (ip + ihl) segLen out'
      else if cfgUdp then parseUdp P F len (ip + ihl) out'
      else if P.udpOffAsTcp then parseTcp P F len (ip + ihl) segLen out'
      else parseSkip .udpDisabled out'

/-- The IPv6 stage (R128). -/
def parseIpv6 (P : Params) (F : Memory) (len ip : Nat) (out : OutRecord) : ParseResult :=
  if ip + 40 > len then parseSkip .frameShort out
  else
    let nh := F.read (ip + 6)
    if nh = P.protoTcp then parseFatal .ipv6Tcp out
    else if nh = P.nhHopopt then parseFatal .ipv6Hopopt out
    else if nh = P.nhRouting then parseFatal .ipv6Routing out
    else if nh = P.nhFragment then parseFatal .ipv6Fragment out
    else parseSkip .ipv6Nh out

/-- The dispatch on the resulting ethertype (R110). -/
def parseNetwork (P : Params) (cfgUdp : Bool) (F : Memory) (len cur ethertype : Nat)
    (out : OutRecord) : ParseResult :=
  if ethertype = P.ethertypeIpv4.toNat then parseIpv4 P cfgUdp F len cur out
  else if ethertype = P.ethertypeIpv6.toNat then parseIpv6 P F len cur out
  else parseSkip .ethertype out

/-- The Ethernet + VLAN stage (R108, R109). -/
def parseEth (P : Params) (cfgUdp : Bool) (F : Memory) (len : Nat) (out : OutRecord) : ParseResult :=
  if len < 14 then parseSkip .frameShort out
  else if F.beValue 12 2 = P.ethertypeVlan.toNat then
    if len < 18 then parseSkip .frameShort out
    else parseNetwork P cfgUdp F len 18 (F.beValue 16 2) out
  else parseNetwork P cfgUdp F len 14 (F.beValue 12 2) out

/-- `Parse(F[0..frame_len−1], frame_len, ts_whole, ts_frac, cfg_udp; parameters)` (R79). -/
def parse (P : Params) (cfgUdp : Bool) (F : Memory) (r : Request) : ParseResult :=
  parseEth P cfgUdp F r.frameLen.toNat
    { OutRecord.zero with timestamp := timestampNs P.tsTie r.tsWhole r.tsFrac }

end Sys2Proof.Machine
end

