-- ==== Sys2Proof/Safety.lean ====
section
/-! DEFINITION. What the claims mean by a good state: the invariants that rule out the states no run
reaches, each from the rules it cites. All are Bool, so that a concrete state can be tested. -/

namespace Sys2Proof.Machine

/-- The latches agree with the sequencer (R26, R27, R149, R77). -/
def latchesAgree (s : State) : Bool :=
  s.status.aborted == (s.seq == .aborted) && (s.status.stopped == (s.seq == .stopped))

/-- `status.reason` is of the kind `status.outcome` says, and no SKIP of the block has a framer's code
(R25, R145, R146, R147). -/
def statusLegal (st : Status) : Bool :=
  match st.outcome, st.reason with
  | .none, .none => true
  | .packet, .none => true
  | .skip, .skip r => !r.framers
  | .fatal, .fatal _ => true
  | _, _ => false

/-- The status belongs to the state it was left in: DELIVER and STOPPED after a PACKET, ABORTED after a
FATAL (R75, R76, R149). -/
def statusPlaced (s : State) : Bool :=
  match s.seq with
  | .deliver | .stopped => (s.status.outcome == .packet)
  | .aborted => (s.status.outcome == .fatal)
  | .idle => (s.status.outcome != .fatal)
  | .eth | .ipv4 | .ipv6 | .tcp | .udp => (s.status.outcome != .fatal)

/-- `out` as R22 and R6 describe it: the addresses' upper 32 bits 0, `length` equal to `payload_len`. -/
def outLegal (o : OutRecord) : Bool :=
  (o.srcAddr.extractLsb' 32 32 == 0) && (o.dstAddr.extractLsb' 32 32 == 0)
    && (o.length == o.payloadLen)

/-- No handshake is pending where it could not be taken: no request in a transaction (R71), an
acknowledgement only in DELIVER (R76). -/
def handshakesLegal (s : State) : Bool :=
  (!s.busy || s.req.isNone) && (s.ack.isNone || (s.seq == .deliver))

/-- The network header stands at 14, or at 18 after a tag (R19). -/
def curLegal (d : Datapath) : Bool := (d.cur == some 14) || (d.cur == some 18)

/-- `Need(ip, n)` has passed (R37). -/
def ipInFrame (s : State) (n : Nat) : Bool := s.dp.cur.any fun ip => ip.toNat + n ≤ s.frameLen.toNat

/-- IP4.HDR has run and the protocol filter has passed (R116). -/
def ip4Ready (s : State) : Bool :=
  curLegal s.dp && ipInFrame s 20 && (s.dp.ihlBytes.any fun v => v.toNat ≤ 60)
    && (s.dp.proto.any fun p => !s.params.otherProto p)

/-- `seg_len` has a legal value (R6, R122). -/
def segLegal (d : Datapath) : Bool := d.segLen.any fun v => decide (0 ≤ v) && decide (v ≤ 65535)

/-- `t_off` has a legal value (R123). -/
def tOffLegal (d : Datapath) : Bool := d.tOff.any fun t => t.toNat ≤ 78

/-- `Need(t_off, n)` has passed (R37). -/
def tOffInFrame (s : State) (n : Nat) : Bool := s.dp.tOff.any fun t => t.toNat + n ≤ s.frameLen.toNat

/-- `plen` and `poff` have legal values (R6, R138, R140). -/
def payloadLegal (d : Datapath) : Bool :=
  (d.plen.any fun v => decide (-60 ≤ v) && decide (v ≤ 65535)) && (d.poff.any fun o => o.toNat ≤ 138)

/-- The stages a point belongs to. -/
def pointStage : Point → Seq → Bool
  | .tsConv, .eth | .ethHdr, .eth | .ethType, .eth | .ethInner, .eth => true
  | .ip4Hdr, .ipv4 | .ip4Flags, .ipv4 | .ip4Ihl, .ipv4 | .ip4Addr, .ipv4 | .ip4SegLen, .ipv4
  | .ip4TOff, .ipv4 | .ip4Proto, .ipv4 => true
  | .ip6Hdr, .ipv6 | .ip6Nh, .ipv6 => true
  | .tcpHdr, .tcp | .tcpDoff, .tcp | .tcpPayload, .tcp => true
  | .udpHdr, .udp | .udpPayload, .udp => true
  | .tpNegLen, .tcp | .tpBounds, .tcp | .tpWrite, .tcp | .deliver, .tcp => true
  | .tpNegLen, .udp | .tpBounds, .udp | .tpWrite, .udp | .deliver, .udp => true
  | _, _ => false

/-- The registers the operation at a point reads have been written on the path that leads there (R21),
and the checks before it have passed (R37, R116, R136, R139). -/
def readyAt (s : State) : Point → Bool
  | .tsConv | .ethHdr | .deliver => true
  | .ethType => (s.dp.cur == some 14) && s.dp.ethertype.isSome
  | .ethInner => (s.dp.cur == some 18) && s.dp.ethertype.isSome
  | .ip4Hdr | .ip6Hdr => curLegal s.dp
  | .ip4Flags | .ip4Ihl | .ip4Addr | .ip4SegLen => ip4Ready s
  | .ip4TOff => ip4Ready s && segLegal s.dp
  | .ip4Proto => s.dp.proto.any fun p => s.params.otherProto p || (tOffLegal s.dp && segLegal s.dp)
  | .ip6Nh => s.dp.nh.isSome
  | .tcpHdr => tOffLegal s.dp && segLegal s.dp
  | .tcpDoff => tOffLegal s.dp && segLegal s.dp && tOffInFrame s 20
  | .tcpPayload =>
    tOffLegal s.dp && segLegal s.dp && (s.dp.thl.any fun v => v.toNat ≤ 60)
  | .udpHdr => tOffLegal s.dp
  | .udpPayload => tOffLegal s.dp && s.dp.udpLen.isSome
  | .tpNegLen => payloadLegal s.dp
  | .tpBounds | .tpWrite => payloadLegal s.dp && (s.dp.plen.any fun v => decide (0 ≤ v))
  | .accept | .ack | .frHdr | .frRead | .frType | .frExt | .frPad | .frIssue => false

/-- In a stage, the sequencer stands at a point of that stage whose operation is ready. -/
def stageReady (s : State) : Bool :=
  match s.seq with
  | .eth | .ipv4 | .ipv6 | .tcp | .udp => pointStage s.point s.seq && readyAt s s.point
  | .idle | .deliver | .aborted | .stopped => true

/-- The framer: its record fits the 16-bit total length (R87), from FR.EXT on its record is Ethernet
(R91), and what FR.ISSUE takes starts inside the record (R93). -/
def framerLegal (f : Framer) : Bool :=
  decide (f.record.length ≤ 65519) && decide (f.pos ≤ f.stream.length)
    && (match f.phase with
        | .ext | .pad => (f.recType == 2)
        | .issue | .wait => (f.recType == 2) && decide (2 ≤ f.base ∧ f.base ≤ f.record.length)
        | .off | .hdr | .read | .type | .done => true)

/-- A good state: every one of the above, and the frame buffer in canonical form. -/
def State.inv (s : State) : Bool :=
  s.frame.wf && latchesAgree s && statusLegal s.status && statusPlaced s && outLegal s.out
    && handshakesLegal s && stageReady s && framerLegal s.fr

/-- The block is inside a stage: accepted, and not yet at the end of its parse (R17, R18). -/
def State.parsing (s : State) : Bool :=
  match s.seq with
  | .eth | .ipv4 | .ipv6 | .tcp | .udp => true
  | .idle | .deliver | .aborted | .stopped => false

/-- A step that stops with a fault. -/
def faults (r : Result) : Prop := ∃ f, r = .fault f

/-- The operation the decoder reads at a point, if it reads one. -/
def opAt (p : Point) (s : State) : Option Instr :=
  match fetch s p with
  | .error _ => none
  | .ok sel =>
    match decode s.params sel with
    | .error _ => none
    | .ok i => some i

/-- The block's next operation in a stage. -/
def nextOp (s : State) : Option Instr := opAt s.point s

/-- The framer's next operation, if it has one. -/
def nextFramerOp (s : State) : Option Instr :=
  match s.fr.phase.point with
  | none => none
  | some p => opAt p s

/-- `t` is `s` after `raise Skip(r)`: the four status registers, `seq`, and nothing else the spec names
(R148; the micro-position `point` is the model's own). -/
def skipsTo (r : SkipReason) (s t : State) : Prop :=
  t = { s with
    status := ⟨.skip, .skip r, s.status.aborted, s.status.stopped⟩
    seq := .idle
    point := t.point }

/-- `t` is `s` after `raise Fatal(r)`: the abort latch set as well (R149). -/
def abortsTo (r : FatalReason) (s t : State) : Prop :=
  t = { s with
    status := ⟨.fatal, .fatal r, true, s.status.stopped⟩
    seq := .aborted
    point := t.point }

/-- `t` is `s` with the framer's state `f`, the framer's next phase apart. -/
def framerTo (f : Framer) (s t : State) : Prop := t = { s with fr := { f with phase := t.fr.phase } }

/-- `n` steps, as long as each answers a next state. -/
def run : Nat → State → Result
  | 0, s => .next s
  | n + 1, s =>
    match step s with
    | .next t => run n t
    | .fault f => .fault f
    | .refused r => .refused r

/-- What the transaction that ended in `s` left (R79). -/
def resultOf (s : State) : ParseResult := ⟨s.status.outcome, s.status.reason, s.out⟩

/-- Where `seq` stands after a transaction, by its outcome (R75, R148, R149). -/
def endSeq : TxOutcome → Seq
  | .packet => .deliver
  | .skip => .idle
  | .fatal => .aborted
  | .none => .idle

/-- `t` is the end of a transaction that left `p` (R78, R79). -/
def endsWith (p : ParseResult) (t : State) : Prop := resultOf t = p ∧ t.seq = endSeq p.outcome

/-- The stage changes of R73, a stage's own operations included. -/
def stageEdge : Seq → Seq → Bool
  | .eth, .eth | .eth, .ipv4 | .eth, .ipv6 | .eth, .idle => true
  | .ipv4, .ipv4 | .ipv4, .tcp | .ipv4, .udp | .ipv4, .idle | .ipv4, .aborted => true
  | .ipv6, .ipv6 | .ipv6, .idle | .ipv6, .aborted => true
  | .tcp, .tcp | .tcp, .idle | .tcp, .deliver => true
  | .udp, .udp | .udp, .idle | .udp, .deliver => true
  | _, _ => false

/-- The framer's own operations (41_record_framer.md), which the block does not run. -/
def isFramerOp : Instr → Bool
  | .frHdr | .frRead | .frType | .frExt | .frPad | .frIssue => true
  | .txnAccept | .tsConv | .ethHdr | .ethVlan | .ethIpv4 | .ethIpv4Inner | .ethIpv6
  | .ethIpv6Inner | .ethQinq | .ethOther _ | .ethOtherInner _ | .ip4Hdr | .ip4Other _ | .ip4Mf
  | .ip4Ihl | .ip4Addr | .ip4SegLen | .ip4TOff | .ip4Tcp | .ip4Udp | .ip4UdpOff | .ip6Hdr | .ip6Tcp
  | .ip6Hopopt | .ip6Routing | .ip6Fragment | .ip6Other _ | .tcpHdr | .tcpDoff | .tcpPayload
  | .udpHdr | .udpPayload | .tpNegLen | .tpBounds | .tpWrite _ | .txnDeliver | .txnAck _ => false

end Sys2Proof.Machine
end

