-- ==== Sys2Proof/Certificates/Slice0/Obligations.lean ====
section
/-! DEFINITION. The statements for the provers. Each docstring names the rules of spec/ it formalises, or
says that it rests on the model's own choice. A result statement gives the whole next state, so it is
its instruction's frame as well; `point` and the framer's `phase` are the model's own micro-positions
(log entry 6), so those statements leave them open and say instead which operation comes next. -/

open Sys2Proof Sys2Proof.Machine

/-! ## Reset, handshakes and the agents -/

/-- R167: what asserting reset leaves, from any state, at once and as long as it is asserted, and that
releasing it changes nothing else. -/
def Obligations.ResetRestoresEveryValue : Prop :=
  ∀ s : State, ∃ t, integratorStep true s = .next t ∧ step t = .next t ∧ t.rst = true ∧
    t.seq = .idle ∧ t.cfgUdp = false ∧ t.status = ⟨.none, .none, false, false⟩ ∧
    t.out = ⟨0, .none, 0, 0, 0, 0, 0⟩ ∧
    t.dp = ⟨none, none, none, none, none, none, none, none, none, none, none, none, none, none⟩ ∧
    t.frame = s.frame ∧ sinkRecord t = none ∧
    (∀ r : Request, r.frameLen.toNat ≤ t.params.frameMax → acceptRefusal t r = none) ∧
    (s.rst = true → step s = .next t) ∧
    integratorStep false t = .next { t with rst := false }

/-- R30: every value of its table, in `State.reset`. -/
def Obligations.ResetStateHasTheListedValues : Prop :=
  State.reset.seq = .idle ∧ State.reset.cfgUdp = false ∧ State.reset.includeUdp = false ∧
    State.reset.status.outcome = .none ∧ State.reset.status.reason = .none ∧
    State.reset.status.aborted = false ∧ State.reset.status.stopped = false ∧
    State.reset.out = ⟨0, .none, 0, 0, 0, 0, 0⟩ ∧
    State.reset.dp =
      ⟨none, none, none, none, none, none, none, none, none, none, none, none, none, none⟩ ∧
    step State.reset = .next State.reset

/-- R71: an acceptable request is accepted; then TS.CONV runs (R72), the part of ACCEPT that has a row of
its own. -/
def Obligations.AcceptSamplesInputsAndClearsOutput : Prop :=
  ∀ (s : State) (r : Request), s.req = some r → s.seq = .idle → s.status.aborted = false →
    s.status.stopped = false → r.frameLen.toNat ≤ s.params.frameMax →
    ∃ t u, exec .txnAccept s = .next t ∧ nextOp t = some .tsConv ∧ exec .tsConv t = .next u ∧
      nextOp u = some .ethHdr ∧
      u = { s with
        req := none
        cfgUdp := s.includeUdp
        frameLen := r.frameLen
        tsWhole := r.tsWhole
        tsFrac := r.tsFrac
        dp := ⟨none, none, none, none, none, none, none, none, none, none, none, none, none, none⟩
        out := ⟨timestampNs s.params.tsTie r.tsWhole r.tsFrac, .none, 0, 0, 0, 0, 0⟩
        seq := .eth
        point := u.point } ∧
      t = { u with out := ⟨0, .none, 0, 0, 0, 0, 0⟩, point := t.point }

/-- R15, and R71's precondition term by term: every other request is refused by name, at the block and
at the producer's interface. -/
def Obligations.UnacceptableRequestsAreRefused : Prop :=
  ∀ (s : State) (r : Request),
    (s.status.aborted = true →
      producerStep (.present r) s = .refused .requestWhileAborted ∧
      (s.req = some r → exec .txnAccept s = .refused .requestWhileAborted)) ∧
    (s.status.aborted = false → s.status.stopped = true →
      producerStep (.present r) s = .refused .requestWhileStopped ∧
      (s.req = some r → exec .txnAccept s = .refused .requestWhileStopped)) ∧
    (s.status.aborted = false → s.status.stopped = false → s.seq ≠ .idle →
      producerStep (.present r) s = .refused .requestWhileBusy ∧
      (s.req = some r → exec .txnAccept s = .refused .requestWhileBusy)) ∧
    (s.status.aborted = false → s.status.stopped = false → s.seq = .idle →
      s.params.frameMax < r.frameLen.toNat →
      producerStep (.present r) s = .refused .frameTooLong ∧
      (s.req = some r → exec .txnAccept s = .refused .frameTooLong))

/-- R75: the outcome is PACKET and the record becomes visible to the Sink (R24), which has not acknowledged
yet; that a held acknowledgement hides it is the model's choice (log entry 8). -/
def Obligations.DeliverShowsTheRecordToTheSink : Prop :=
  ∀ s : State, ∃ t, exec .txnDeliver s = .next t ∧ (s.ack = none → sinkRecord t = some s.out) ∧
    (s.ack ≠ none → sinkRecord t = none) ∧
    t = { s with
      status := ⟨.packet, .none, s.status.aborted, s.status.stopped⟩
      seq := .deliver
      point := t.point }

/-- R76, R77: the acknowledgement ends the transaction, or with `stop` the run; outside DELIVER it has no
step, and without it the block waits in DELIVER. A Sink that fails stops the run in the same way, and
the outcome stays as it was (R158). -/
def Obligations.AckReturnsToIdleOrStops : Prop :=
  ∀ s : State,
    (s.seq = .deliver → ∃ t, exec (.txnAck false) s = .next t ∧
      t = { s with ack := none, seq := .idle, point := t.point }) ∧
    (s.seq = .deliver → ∃ t, exec (.txnAck true) s = .next t ∧
      t = { s with
        ack := none
        status := ⟨s.status.outcome, s.status.reason, s.status.aborted, true⟩
        seq := .stopped
        point := t.point }) ∧
    (∀ stop, s.seq ≠ .deliver → exec (.txnAck stop) s = .refused .ackNotDelivering) ∧
    (s.seq = .deliver → s.rst = false → s.ack = none → s.req = none → step s = .next s) ∧
    (s.seq = .deliver → s.rst = false → s.ack = none → ∃ t u, sinkStep .fail s = .next t ∧
      sinkStep (.acknowledge true) s = .next t ∧ step t = .next u ∧ u.seq = .stopped ∧
      u.status = ⟨s.status.outcome, s.status.reason, s.status.aborted, true⟩)

/-- R45: the producer writes the frame buffer only while no request is pending and no transaction runs
(R169, I5; the refusal in DELIVER is log entry 25), and the Sink reads `out` and the payload view only in
DELIVER (R24, R41, R160), until it acknowledges (R42, R170). Every other read changes nothing but the
counter of free values (I7, I8). The response is the outcome and the reason (R14, R29; log
entry 30). The model's choices here: the free value at an offset the view does not name and its counter (log
entry 7); the view ending when the acknowledgement is given, and a second acknowledgement refused (log
entry 8); that nothing is presented while reset is asserted (log entry 9); that a host is refused while the
framer is the producer (log entry 29), and the start of a run after a latch (log entry 24). -/
def Obligations.ProducerAndSinkTakeTurnsOnTheFrame : Prop :=
  ∀ s : State,
    (∀ (o : Half) (b : Byte), s.frame.wf = true →
      (s.seq = .idle ∨ s.seq = .aborted ∨ s.seq = .stopped) → s.req = none →
      (s.fr.phase = .off ∨ s.fr.phase = .done) →
      ∃ t, producerStep (.writeFrame o b) s = .next t ∧ t = { s with frame := t.frame } ∧
        t.frame.wf = true ∧ t.frame.read o.toNat = b ∧
        ∀ a, a ≠ o.toNat → t.frame.read a = s.frame.read a) ∧
    (∀ (o : Half) (b : Byte), s.seq ≠ .idle → s.seq ≠ .aborted → s.seq ≠ .stopped →
      producerStep (.writeFrame o b) s = .refused .bufferOwned) ∧
    (∀ (o : Half) (b : Byte), s.req ≠ none →
      producerStep (.writeFrame o b) s = .refused .bufferOwned) ∧
    (∀ (o : Half) (b : Byte), s.busy = false → s.req = none → s.fr.phase ≠ .off →
      s.fr.phase ≠ .done → producerStep (.writeFrame o b) s = .refused .secondProducer) ∧
    (∀ r, acceptRefusal s r = none → s.rst = false → s.fr.phase = .off ∨ s.fr.phase = .done →
      producerStep (.present r) s = .next { s with req := some r }) ∧
    (∀ r, acceptRefusal s r = none → s.rst = false → s.fr.phase ≠ .off → s.fr.phase ≠ .done →
      producerStep (.present r) s = .refused .secondProducer) ∧
    (∀ bs, s.rst = false → s.fr.phase = .off → s.busy = false → s.req = none →
      (s.status.aborted = true → producerStep (.startRun bs) s = .refused .requestWhileAborted) ∧
      (s.status.aborted = false → s.status.stopped = true →
        producerStep (.startRun bs) s = .refused .requestWhileStopped)) ∧
    (∀ bs, s.rst = false → s.fr.phase = .off → s.busy = false → s.req = none →
      s.status.aborted = false → s.status.stopped = false →
      producerStep (.startRun bs) s =
        .next { s with fr := { Framer.off with stream := bs, phase := .hdr } }) ∧
    (∀ bs, s.rst = false → s.fr.phase = .off → s.busy = true ∨ s.req ≠ none →
      producerStep (.startRun bs) s = .refused .secondProducer) ∧
    (∀ r, acceptRefusal s r = none → s.rst = true →
      producerStep (.present r) s = .refused .inReset) ∧
    (∀ bs, s.rst = true → producerStep (.startRun bs) s = .refused .inReset) ∧
    response s = ⟨s.status.outcome, s.status.reason⟩ ∧
    (s.seq = .deliver → s.ack = none → sinkRecord s = some s.out) ∧
    (s.seq ≠ .deliver ∨ s.ack ≠ none → sinkRecord s = none) ∧
    (∀ i < s.out.payloadLen.toNat, s.seq = .deliver → s.ack = none →
      s.out.payloadOff.toNat + i < s.frameLen.toNat →
      viewOffset s i = some (s.out.payloadOff.toNat + i) ∧
      sinkReadByte (s.out.payloadOff.toNat + i) s =
        (s.frame.read (s.out.payloadOff.toNat + i), s)) ∧
    (∀ i, s.out.payloadLen.toNat ≤ i → viewOffset s i = none) ∧
    (∀ o, s.seq ≠ .deliver ∨ s.ack ≠ none ∨ s.frameLen.toNat ≤ o ∨ o < s.out.payloadOff.toNat ∨
      s.out.payloadOff.toNat + s.out.payloadLen.toNat ≤ o →
      (sinkReadByte o s).2 = { s with free := s.free + 1 }) ∧
    (∀ a, s.seq = .deliver → s.ack ≠ none → sinkStep a s = .refused .ackAlreadyGiven)

/-! ## Outcomes and the shared operations -/

/-- R148, R149: what SKIP and FATAL change; after a FATAL no request is accepted, after a SKIP the latches
are as before. -/
def Obligations.SkipAndFatalWriteTheStatus : Prop :=
  ∀ s : State,
    (∀ r : SkipReason, skipsTo r s (raiseSkip r s)) ∧
    (∀ r : FatalReason, abortsTo r s (raiseFatal r s) ∧
      ∀ q : Request, acceptRefusal (raiseFatal r s) q = some .requestWhileAborted) ∧
    (∀ (r : SkipReason) (q : Request), s.status.aborted = false → s.status.stopped = false →
      q.frameLen.toNat ≤ s.params.frameMax → acceptRefusal (raiseSkip r s) q = none)

/-- R145, R146, R147: the codes, and that no two reasons share one; fatal codes have bit 4 set. -/
def Obligations.OutcomeAndReasonCodes : Prop :=
  TxOutcome.code .none = 0 ∧ TxOutcome.code .packet = 1 ∧ TxOutcome.code .skip = 2 ∧
    TxOutcome.code .fatal = 3 ∧
    Reason.code (.skip .ethertype) = 1 ∧ Reason.code (.skip .ipv4Proto) = 2 ∧
    Reason.code (.skip .ipv6Nh) = 3 ∧ Reason.code (.skip .udpDisabled) = 4 ∧
    Reason.code (.skip .frameShort) = 5 ∧ Reason.code (.skip .negativeLength) = 6 ∧
    Reason.code (.skip .badHdrLen) = 7 ∧ Reason.code (.skip .payloadBounds) = 8 ∧
    Reason.code (.skip .skipRecordType) = 9 ∧ Reason.code (.skip .skipExtShort) = 10 ∧
    Reason.code (.fatal .ipv4Mf) = 17 ∧ Reason.code (.fatal .ipv6Tcp) = 18 ∧
    Reason.code (.fatal .ipv6Hopopt) = 19 ∧ Reason.code (.fatal .ipv6Routing) = 20 ∧
    Reason.code (.fatal .ipv6Fragment) = 21 ∧
    (∀ a b : Reason, a.code = b.code → a = b) ∧
    (∀ r : FatalReason, (Reason.code (.fatal r)).getLsbD 4 = true) ∧
    (∀ r : SkipReason, (Reason.code (.skip r)).getLsbD 4 = false)

/-- R36, R37: `MemRead` is the big-endian sum, byte by byte, and a fault where its precondition fails;
`Need` skips with FRAME_SHORT exactly when the range runs past `frame_len`. -/
def Obligations.MemReadIsTheBigEndianSum : Prop :=
  ∀ (s : State) (o n : Nat),
    (∀ k : Nat → Result, n = 1 ∨ n = 2 ∨ n = 4 → o + n ≤ s.frameLen.toNat →
      memRead s o n k =
        k (((List.range n).map fun i => (s.frame.read (o + i)).toNat * 256 ^ (n - 1 - i)).sum)) ∧
    (∀ k : Nat → Result, s.frameLen.toNat < o + n → memRead s o n k = .fault (.memRead o n)) ∧
    (∀ k : Result, s.frameLen.toNat < o + n →
      ∃ t, need s o n k = .next t ∧ skipsTo .frameShort s t) ∧
    (∀ k : Result, o + n ≤ s.frameLen.toNat → need s o n k = k)

/-! ## The timestamp converter -/

/-- R100: TS.CONV writes the rounded nanoseconds, and nothing else. -/
def Obligations.TsConvRoundsToNearest : Prop :=
  ∀ s : State, ∃ t fracNanos, exec .tsConv s = .next t ∧
    t = { s with out := { s.out with timestamp := t.out.timestamp }, point := t.point } ∧
    nextOp t = some .ethHdr ∧
    t.out.timestamp.toNat = s.tsWhole.toNat * 1000000000 + fracNanos ∧
    (let p := s.tsFrac.toNat * 1000000000
     let q := p / 4294967296
     let r := p % 4294967296
     (r > 2147483648 → fracNanos = q + 1) ∧
     (r < 2147483648 → fracNanos = q) ∧
     (r = 2147483648 → s.params.tsTie = .halfUp → fracNanos = q + 1) ∧
     (r = 2147483648 → s.params.tsTie = .halfEven → fracNanos = q + q % 2))

/-- R101: the one expression of the default rounding. -/
def Obligations.HalfUpTimestampClosedForm : Prop :=
  ∀ whole frac : Word,
    (timestampNs .halfUp whole frac).toNat =
      whole.toNat * 1000000000 + (frac.toNat * 1000000000 + 2147483648) / 4294967296

/-- R102: where the ties are, one for each of 512 values, and what they round to. The rule's 'one apart'
holds of R100's formula where `q` is even; where `q` is odd the two settings agree (log entry 21). -/
def Obligations.TimestampTiesAreTheListedFractions : Prop :=
  ∀ frac : Word,
    (frac.toNat * 1000000000 % 4294967296 = 2147483648 ↔ frac.toNat % 8388608 = 4194304) ∧
    (frac.toNat % 8388608 = 4194304 ↔ ∃ k : Fin 512, frac.toNat = k * 8388608 + 4194304) ∧
    (frac.toNat % 8388608 ≠ 4194304 → fracNs .halfUp frac.toNat = fracNs .halfEven frac.toNat) ∧
    (frac.toNat % 8388608 = 4194304 →
      fracNs .halfUp frac.toNat =
        fracNs .halfEven frac.toNat + (1 - frac.toNat * 1000000000 / 4294967296 % 2)) ∧
    fracNs .halfUp 0x00400000 = 976563 ∧ fracNs .halfEven 0x00400000 = 976562

/-- R104, R105: the rounded fraction's range and the two fractions that carry into the seconds; the
timestamp's range, both bounds reached, so that it fits a signed register too. -/
def Obligations.TimestampRangeIsExact : Prop :=
  ∀ (tie : TsTie) (whole frac : Word),
    fracNs tie frac.toNat ≤ 1000000000 ∧
    (fracNs tie frac.toNat = 1000000000 ↔ frac = 0xFFFFFFFE ∨ frac = 0xFFFFFFFF) ∧
    (frac = 0xFFFFFFFD → fracNs tie frac.toNat = 999999999) ∧
    (frac = 0xFFFFFFFE ∨ frac = 0xFFFFFFFF →
      (timestampNs tie whole frac).toNat = (whole.toNat + 1) * 1000000000) ∧
    (timestampNs tie whole frac).toNat ≤ 4294967296000000000 ∧
    (timestampNs tie whole frac).toNat < 9223372036854775808 ∧
    (timestampNs tie 0 0).toNat = 0 ∧
    (timestampNs tie 0xFFFFFFFF 0xFFFFFFFF).toNat = 4294967296000000000

/-- R103: the double-precision computation of the source gives the same nanoseconds, whatever the tie
setting; the fraction itself is exact in binary64. -/
def Obligations.DoublePrecisionAgrees : Prop :=
  ∀ (tie : TsTie) (frac : Word),
    binary64Round frac.toNat = frac.toNat ∧ fracNsDouble tie frac.toNat = fracNs tie frac.toNat

/-! ## The Ethernet + VLAN stage -/

/-- R108: ETH.HDR; what comes next is ETH.VLAN or the dispatch of R110. -/
def Obligations.EthHdrReadsTheEthertype : Prop :=
  ∀ s : State,
    (s.frameLen.toNat < 14 → ∃ t, exec .ethHdr s = .next t ∧ skipsTo .frameShort s t) ∧
    (14 ≤ s.frameLen.toNat → ∃ t e, exec .ethHdr s = .next t ∧
      BitVec.toNat (w := 16) e = (s.frame.read 12).toNat * 256 + (s.frame.read 13).toNat ∧
      t = { s with
        dp := { s.dp with ethertype := some e, cur := some 14, vlan := some false }
        point := t.point } ∧
      nextOp t = some (if e = s.params.ethertypeVlan then .ethVlan
        else if e = s.params.ethertypeIpv4 then .ethIpv4
        else if e = s.params.ethertypeIpv6 then .ethIpv6 else .ethOther e))

/-- R109: ETH.VLAN unwraps one tag; a second tag value is not unwrapped. -/
def Obligations.EthVlanUnwrapsOneTag : Prop :=
  ∀ s : State,
    (s.frameLen.toNat < 18 → ∃ t, exec .ethVlan s = .next t ∧ skipsTo .frameShort s t) ∧
    (18 ≤ s.frameLen.toNat → ∃ t e, exec .ethVlan s = .next t ∧
      BitVec.toNat (w := 16) e = (s.frame.read 16).toNat * 256 + (s.frame.read 17).toNat ∧
      t = { s with
        dp := { s.dp with ethertype := some e, cur := some 18, vlan := some true }
        point := t.point } ∧
      nextOp t = some (if e = s.params.ethertypeIpv4 then .ethIpv4Inner
        else if e = s.params.ethertypeIpv6 then .ethIpv6Inner
        else if e = s.params.ethertypeVlan then .ethQinq else .ethOtherInner e))

/-- R111, R112, R124, R125: the operations that enter a later stage change `seq` alone, and that stage's
entry comes next. -/
def Obligations.DispatchEntersTheNextStage : Prop :=
  ∀ s : State,
    (∃ t, exec .ethIpv4 s = .next t ∧ t = { s with seq := .ipv4, point := t.point } ∧
      nextOp t = some .ip4Hdr) ∧
    (∃ t, exec .ethIpv4Inner s = .next t ∧ t = { s with seq := .ipv4, point := t.point } ∧
      nextOp t = some .ip4Hdr) ∧
    (∃ t, exec .ethIpv6 s = .next t ∧ t = { s with seq := .ipv6, point := t.point } ∧
      nextOp t = some .ip6Hdr) ∧
    (∃ t, exec .ethIpv6Inner s = .next t ∧ t = { s with seq := .ipv6, point := t.point } ∧
      nextOp t = some .ip6Hdr) ∧
    (∃ t, exec .ip4Tcp s = .next t ∧ t = { s with seq := .tcp, point := t.point } ∧
      nextOp t = some .tcpHdr) ∧
    (∃ t, exec .ip4Udp s = .next t ∧ t = { s with seq := .udp, point := t.point } ∧
      nextOp t = some .udpHdr)

/-- R113, R114, R118, R133: the default rows and the second tag skip, each with its reason, whatever the
value that selected them. -/
def Obligations.UnrecognisedValuesSkip : Prop :=
  ∀ s : State,
    (∀ e, ∃ t, exec (.ethOther e) s = .next t ∧ skipsTo .ethertype s t) ∧
    (∀ e, ∃ t, exec (.ethOtherInner e) s = .next t ∧ skipsTo .ethertype s t) ∧
    (∃ t, exec .ethQinq s = .next t ∧ skipsTo .ethertype s t) ∧
    (∀ p, ∃ t, exec (.ip4Other p) s = .next t ∧ skipsTo .ipv4Proto s t) ∧
    (∀ nh, ∃ t, exec (.ip6Other nh) s = .next t ∧ skipsTo .ipv6Nh s t)

/-! ## The IPv4 stage -/

/-- R117: IP4.HDR; what comes next is IP4.OTHER for a protocol that is neither TCP nor UDP, else the
more-fragments check (R116). -/
def Obligations.Ip4HdrReadsLengthAndProtocol : Prop :=
  ∀ (s : State) (ip : Half), s.dp.cur = some ip →
    (s.frameLen.toNat < ip.toNat + 20 →
      ∃ t, exec .ip4Hdr s = .next t ∧ skipsTo .frameShort s t) ∧
    (ip.toNat + 20 ≤ s.frameLen.toNat →
      ∃ t ihl, exec .ip4Hdr s = .next t ∧
        BitVec.toNat (w := 7) ihl = (s.frame.read ip.toNat).toNat % 16 * 4 ∧
        t = { s with
          dp := { s.dp with ihlBytes := some ihl, proto := some (s.frame.read (ip.toNat + 9)) }
          point := t.point } ∧
        (s.frame.read (ip.toNat + 9) ≠ s.params.protoTcp →
          s.frame.read (ip.toNat + 9) ≠ s.params.protoUdp →
          nextOp t = some (.ip4Other (s.frame.read (ip.toNat + 9)))) ∧
        (s.frame.read (ip.toNat + 9) = s.params.protoTcp ∨
          s.frame.read (ip.toNat + 9) = s.params.protoUdp → nextOp t = some .ip4Mf))

/-- R119: IP4.MF; bit 5 of the flags byte set aborts the run, clear goes on. -/
def Obligations.Ip4MfAbortsOnAFragment : Prop :=
  ∀ (s : State) (ip : Half), s.dp.cur = some ip → ip.toNat + 7 ≤ s.frameLen.toNat →
    ((s.frame.read (ip.toNat + 6)).getLsbD 5 = true →
      ∃ t, exec .ip4Mf s = .next t ∧
        abortsTo .ipv4Mf { s with dp := { s.dp with mf := some true } } t) ∧
    ((s.frame.read (ip.toNat + 6)).getLsbD 5 = false →
      ∃ t, exec .ip4Mf s = .next t ∧
        t = { s with dp := { s.dp with mf := some false }, point := t.point } ∧
        nextOp t = some .ip4Ihl)

/-- R120: IP4.IHL; a short header length skips only under the strict parameter. -/
def Obligations.Ip4IhlChecksOnlyWhenStrict : Prop :=
  ∀ (s : State) (ihl : BitVec 7), s.dp.ihlBytes = some ihl →
    (s.params.strictHdrLen = true → ihl.toNat < 20 →
      ∃ t, exec .ip4Ihl s = .next t ∧ skipsTo .badHdrLen s t) ∧
    (s.params.strictHdrLen = false ∨ 20 ≤ ihl.toNat →
      ∃ t, exec .ip4Ihl s = .next t ∧ t = { s with point := t.point } ∧ nextOp t = some .ip4Addr)

/-- R121: IP4.ADDR writes both addresses as the big-endian numbers of R34. -/
def Obligations.Ip4AddrWritesBothAddresses : Prop :=
  ∀ (s : State) (ip : Half), s.dp.cur = some ip → ip.toNat + 20 ≤ s.frameLen.toNat →
    ∃ t, exec .ip4Addr s = .next t ∧ nextOp t = some .ip4SegLen ∧
      t = { s with
        out := { s.out with srcAddr := t.out.srcAddr, dstAddr := t.out.dstAddr }
        point := t.point } ∧
      t.out.srcAddr.toNat =
        (s.frame.read (ip.toNat + 12)).toNat * 16777216 +
        (s.frame.read (ip.toNat + 13)).toNat * 65536 +
        (s.frame.read (ip.toNat + 14)).toNat * 256 + (s.frame.read (ip.toNat + 15)).toNat ∧
      t.out.dstAddr.toNat =
        (s.frame.read (ip.toNat + 16)).toNat * 16777216 +
        (s.frame.read (ip.toNat + 17)).toNat * 65536 +
        (s.frame.read (ip.toNat + 18)).toNat * 256 + (s.frame.read (ip.toNat + 19)).toNat

/-- R122: IP4.SEGLEN; the segment length as an integer, and the skip when it is negative. -/
def Obligations.Ip4SegLenSubtractsTheHeader : Prop :=
  ∀ (s : State) (ip : Half) (ihl : BitVec 7), s.dp.cur = some ip → s.dp.ihlBytes = some ihl →
    ip.toNat + 4 ≤ s.frameLen.toNat →
    ∃ t total, exec .ip4SegLen s = .next t ∧
      BitVec.toNat (w := 16) total =
        (s.frame.read (ip.toNat + 2)).toNat * 256 + (s.frame.read (ip.toNat + 3)).toNat ∧
      (total.toNat < ihl.toNat →
        skipsTo .negativeLength
          { s with dp := { s.dp with
            totalLen := some total, segLen := some ((total.toNat : Int) - ihl.toNat) } } t) ∧
      (ihl.toNat ≤ total.toNat →
        t = { s with
          dp := { s.dp with
            totalLen := some total, segLen := some ((total.toNat : Int) - ihl.toNat) }
          point := t.point } ∧
        nextOp t = some .ip4TOff)

/-- R123: IP4.TOFF, with its bound of 78; what comes next is the dispatch of R63. -/
def Obligations.Ip4TOffSkipsTheHeader : Prop :=
  ∀ (s : State) (ip : Half) (ihl : BitVec 7), s.dp.cur = some ip → s.dp.ihlBytes = some ihl →
    ip.toNat + ihl.toNat < 65536 →
    ∃ t off, exec .ip4TOff s = .next t ∧
      BitVec.toNat (w := 16) off = ip.toNat + ihl.toNat ∧
      t = { s with dp := { s.dp with tOff := some off }, point := t.point } ∧
      (ip.toNat ≤ 18 → ihl.toNat ≤ 60 → off.toNat ≤ 78) ∧
      (∀ p, s.dp.proto = some p → p = s.params.protoTcp → nextOp t = some .ip4Tcp) ∧
      (∀ p, s.dp.proto = some p → p ≠ s.params.protoTcp → p = s.params.protoUdp →
        nextOp t = some (if s.cfgUdp then .ip4Udp else .ip4UdpOff))

/-- R126: UDP that is not configured skips, or is parsed as TCP when the parameter says so. -/
def Obligations.Ip4UdpOffSkipsOrParsesAsTcp : Prop :=
  ∀ s : State,
    (s.params.udpOffAsTcp = false →
      ∃ t, exec .ip4UdpOff s = .next t ∧ skipsTo .udpDisabled s t) ∧
    (s.params.udpOffAsTcp = true →
      ∃ t, exec .ip4UdpOff s = .next t ∧ t = { s with seq := .tcp, point := t.point } ∧
        nextOp t = some .tcpHdr)

/-! ## The IPv6 stage -/

/-- R128: IP6.HDR, the 40-byte check, and the dispatch in the rule's order. -/
def Obligations.Ip6HdrReadsTheNextHeader : Prop :=
  ∀ (s : State) (ip : Half), s.dp.cur = some ip →
    (s.frameLen.toNat < ip.toNat + 40 →
      ∃ t, exec .ip6Hdr s = .next t ∧ skipsTo .frameShort s t) ∧
    (ip.toNat + 40 ≤ s.frameLen.toNat →
      ∃ t, exec .ip6Hdr s = .next t ∧
        t = { s with dp := { s.dp with nh := some (s.frame.read (ip.toNat + 6)) }, point := t.point } ∧
        nextOp t = some
          (if s.frame.read (ip.toNat + 6) = s.params.protoTcp then .ip6Tcp
           else if s.frame.read (ip.toNat + 6) = s.params.nhHopopt then .ip6Hopopt
           else if s.frame.read (ip.toNat + 6) = s.params.nhRouting then .ip6Routing
           else if s.frame.read (ip.toNat + 6) = s.params.nhFragment then .ip6Fragment
           else .ip6Other (s.frame.read (ip.toNat + 6))))

/-- R129 to R132: the four fatal next headers abort the run, each under its own reason. -/
def Obligations.Ip6FatalNextHeadersAbort : Prop :=
  ∀ s : State,
    (∃ t, exec .ip6Tcp s = .next t ∧ abortsTo .ipv6Tcp s t) ∧
    (∃ t, exec .ip6Hopopt s = .next t ∧ abortsTo .ipv6Hopopt s t) ∧
    (∃ t, exec .ip6Routing s = .next t ∧ abortsTo .ipv6Routing s t) ∧
    (∃ t, exec .ip6Fragment s = .next t ∧ abortsTo .ipv6Fragment s t)

/-! ## The TCP and UDP stages -/

/-- The stage entries of R136 and R139: TCP.HDR checks 20 bytes and writes nothing, UDP.HDR checks 8 and
reads the length field. -/
def Obligations.TransportEntriesCheckTheHeader : Prop :=
  ∀ (s : State) (off : Half), s.dp.tOff = some off →
    (s.frameLen.toNat < off.toNat + 20 →
      ∃ t, exec .tcpHdr s = .next t ∧ skipsTo .frameShort s t) ∧
    (off.toNat + 20 ≤ s.frameLen.toNat →
      ∃ t, exec .tcpHdr s = .next t ∧ t = { s with point := t.point } ∧ nextOp t = some .tcpDoff) ∧
    (s.frameLen.toNat < off.toNat + 8 →
      ∃ t, exec .udpHdr s = .next t ∧ skipsTo .frameShort s t) ∧
    (off.toNat + 8 ≤ s.frameLen.toNat →
      ∃ t len, exec .udpHdr s = .next t ∧
        BitVec.toNat (w := 16) len =
          (s.frame.read (off.toNat + 4)).toNat * 256 + (s.frame.read (off.toNat + 5)).toNat ∧
        t = { s with dp := { s.dp with udpLen := some len }, point := t.point } ∧
        nextOp t = some .udpPayload)

/-- R137: TCP.DOFF reads the high nibble, and skips a short header only under the strict parameter. -/
def Obligations.TcpDoffReadsTheDataOffset : Prop :=
  ∀ (s : State) (off : Half), s.dp.tOff = some off → off.toNat + 13 ≤ s.frameLen.toNat →
    ∃ t thl, exec .tcpDoff s = .next t ∧
      BitVec.toNat (w := 7) thl = (s.frame.read (off.toNat + 12)).toNat / 16 * 4 ∧
      (s.params.strictHdrLen = true → thl.toNat < 20 →
        skipsTo .badHdrLen { s with dp := { s.dp with thl := some thl } } t) ∧
      (s.params.strictHdrLen = false ∨ 20 ≤ thl.toNat →
        t = { s with dp := { s.dp with thl := some thl }, point := t.point } ∧
        nextOp t = some .tcpPayload)

/-- R138, R140: the payload's offset and length over the integers, where the length may be negative. TCP
subtracts its header from the segment length; UDP uses its own length field whatever `seg_len` holds.
The offsets' bounds are 14 and 138, and 86 for UDP. That poff is written even where plen is negative, before
TP.NEGLEN's check, is the model's choice between R138 with R140 and the pseudocode of R136 and R139 (log
entry 28). -/
def Obligations.PayloadOffsetAndLength : Prop :=
  ∀ (s : State) (off : Half), s.dp.tOff = some off →
    (∀ (seg : Int) (thl : BitVec 7), s.dp.segLen = some seg → s.dp.thl = some thl →
      off.toNat + thl.toNat < 65536 →
      ∃ t poff, exec .tcpPayload s = .next t ∧
        BitVec.toNat (w := 16) poff = off.toNat + thl.toNat ∧
        t = { s with
          dp := { s.dp with plen := some (seg - thl.toNat), poff := some poff }
          point := t.point } ∧
        (14 ≤ off.toNat → off.toNat ≤ 78 → thl.toNat ≤ 60 →
          14 ≤ poff.toNat ∧ poff.toNat ≤ 138) ∧
        nextOp t = some .tpNegLen) ∧
    (∀ len : Half, s.dp.udpLen = some len → off.toNat + 8 < 65536 →
      ∃ t poff, exec .udpPayload s = .next t ∧
        BitVec.toNat (w := 16) poff = off.toNat + 8 ∧
        t = { s with
          dp := { s.dp with plen := some ((len.toNat : Int) - 8), poff := some poff }
          point := t.point } ∧
        (off.toNat ≤ 78 → poff.toNat ≤ 86) ∧ nextOp t = some .tpNegLen)

/-- R141, R142: TP.NEGLEN and TP.BOUNDS. Zero is not negative; a view that ends exactly at `frame_len`
passes, and without the parameter every view does; no field of `out` is written. -/
def Obligations.PayloadChecksSkip : Prop :=
  ∀ (s : State) (plen : Int), s.dp.plen = some plen →
    (plen < 0 → ∃ t, exec .tpNegLen s = .next t ∧ skipsTo .negativeLength s t) ∧
    (0 ≤ plen →
      ∃ t, exec .tpNegLen s = .next t ∧ t = { s with point := t.point } ∧ nextOp t = some .tpBounds) ∧
    (∀ poff : Half, s.dp.poff = some poff → s.params.payloadBoundsCheck = true →
      (s.frameLen.toNat : Int) < poff.toNat + plen →
      ∃ t, exec .tpBounds s = .next t ∧ skipsTo .payloadBounds s t) ∧
    (∀ poff : Half, s.dp.poff = some poff →
      (s.params.payloadBoundsCheck = false ∨ (poff.toNat : Int) + plen ≤ s.frameLen.toNat) →
      ∃ t, exec .tpBounds s = .next t ∧ t = { s with point := t.point } ∧
        (s.seq = .tcp → nextOp t = some (.tpWrite .tcp)) ∧
        (s.seq = .udp → nextOp t = some (.tpWrite .udp)))

/-- R143: TP.WRITE; kind, offset, length and `length`, and no other field of `out`. -/
def Obligations.TransportWriteFillsTheRecord : Prop :=
  ∀ (s : State) (plen : Int) (poff : Half), s.dp.plen = some plen → s.dp.poff = some poff →
    0 ≤ plen → plen ≤ 65535 →
    ∀ (k : Transport), ∃ t len, exec (.tpWrite k) s = .next t ∧
      (BitVec.toNat (w := 16) len : Int) = plen ∧
      t = { s with
        out := { s.out with
          kind := (match k with | .tcp => Kind.tcp | .udp => Kind.udp)
          payloadOff := poff
          payloadLen := len
          length := len }
        point := t.point } ∧
      nextOp t = some .txnDeliver ∧ Kind.code .none = 0 ∧ Kind.code .tcp = 1 ∧ Kind.code .udp = 2

/-! ## The framer -/

/-- R85, R86: FR.HDR; the fields from the 16 header bytes, the time fields in the selected byte order;
the end of the stream and a cut header as R88 and R89 say. -/
def Obligations.FrHdrReadsTheRecordHeader : Prop :=
  ∀ s : State, s.fr.pos ≤ s.fr.stream.length →
    (s.fr.stream.length = s.fr.pos → ∃ t, exec .frHdr s = .next t ∧
      framerTo { s.fr with outcome := .endOfStream, run := .endOfStream } s t ∧
      nextFramerOp t = none) ∧
    (s.fr.pos < s.fr.stream.length → s.fr.stream.length < s.fr.pos + 16 →
      ∃ t, exec .frHdr s = .next t ∧
        framerTo { s.fr with outcome := .truncated s.fr.count, run := .truncated s.fr.count } s t ∧
        nextFramerOp t = none) ∧
    (s.fr.pos + 16 ≤ s.fr.stream.length →
      ∃ t frac whole tlen wlen, exec .frHdr s = .next t ∧ nextFramerOp t = some .frRead ∧
        framerTo { s.fr with
          pos := s.fr.pos + 16
          frac := frac
          whole := whole
          typeByte := s.fr.stream.getD (s.fr.pos + 8) 0
          tlen := tlen
          wlen := wlen } s t ∧
        (let h := fun i => (s.fr.stream.getD (s.fr.pos + i) 0).toNat
         (s.params.erfTsOrder = .big →
           BitVec.toNat (w := 32) frac = h 0 * 16777216 + h 1 * 65536 + h 2 * 256 + h 3 ∧
           BitVec.toNat (w := 32) whole = h 4 * 16777216 + h 5 * 65536 + h 6 * 256 + h 7) ∧
         (s.params.erfTsOrder = .little →
           BitVec.toNat (w := 32) frac = h 3 * 16777216 + h 2 * 65536 + h 1 * 256 + h 0 ∧
           BitVec.toNat (w := 32) whole = h 7 * 16777216 + h 6 * 65536 + h 5 * 256 + h 4) ∧
         BitVec.toNat (w := 16) tlen = h 10 * 256 + h 11 ∧
         BitVec.toNat (w := 16) wlen = h 14 * 256 + h 15))

/-- R87, R90: FR.READ; a total length below 16 or a cut payload is Truncated with the records before it
counted, and a whole payload is taken and counted. The counter is 64 bits wide, so after 2^64 - 1 records the
sum below is 0; that wrap is the model's deduction (log entry 17). -/
def Obligations.FrReadTakesThePayload : Prop :=
  ∀ s : State, s.fr.pos ≤ s.fr.stream.length →
    (s.fr.tlen.toNat < 16 ∨ s.fr.stream.length < s.fr.pos + (s.fr.tlen.toNat - 16) →
      ∃ t, exec .frRead s = .next t ∧
        framerTo { s.fr with outcome := .truncated s.fr.count, run := .truncated s.fr.count } s t ∧
        nextFramerOp t = none) ∧
    (16 ≤ s.fr.tlen.toNat → s.fr.pos + (s.fr.tlen.toNat - 16) ≤ s.fr.stream.length →
      ∃ t payload, exec .frRead s = .next t ∧ nextFramerOp t = some .frType ∧
        framerTo { s.fr with
          record := payload
          pos := s.fr.pos + (s.fr.tlen.toNat - 16)
          count := s.fr.count + 1 } s t ∧
        payload.length = s.fr.tlen.toNat - 16 ∧
        ∀ i < payload.length, payload.getD i 0 = s.fr.stream.getD (s.fr.pos + i) 0)

/-- R91: FR.TYPE; a record that is not Ethernet is dropped whatever its extension flag, and nothing of
the block changes. -/
def Obligations.FrTypePassesOnlyEthernet : Prop :=
  ∀ s : State,
    (s.fr.typeByte.toNat % 128 ≠ 2 → ∃ t, exec .frType s = .next t ∧
      framerTo { s.fr with outcome := .skipped (.skip .skipRecordType) } s t ∧
      nextFramerOp t = some .frHdr) ∧
    (s.fr.typeByte.toNat % 128 = 2 → ∃ t, exec .frType s = .next t ∧ framerTo s.fr s t ∧
      nextFramerOp t = some (if s.fr.typeByte.getLsbD 7 then .frExt else .frPad))

/-- The loop of R92 with the short case of R93: FR.EXT finds the first block whose continuation bit is
clear, or drops a record that ends inside the chain, k then counting its whole blocks; with the flag clear there is no chain. -/
def Obligations.FrExtWalksTheChain : Prop :=
  ∀ s : State,
    (s.fr.typeByte.getLsbD 7 = true → ∀ k, 8 * (k + 1) ≤ s.fr.record.length →
      (∀ j < k, (s.fr.record.getD (8 * j) 0).getLsbD 7 = true) →
      (s.fr.record.getD (8 * k) 0).getLsbD 7 = false →
      ∃ t, exec .frExt s = .next t ∧ framerTo { s.fr with blocks := k + 1 } s t ∧
        nextFramerOp t = some .frPad) ∧
    (s.fr.typeByte.getLsbD 7 = true →
      (∀ k, 8 * (k + 1) ≤ s.fr.record.length → (s.fr.record.getD (8 * k) 0).getLsbD 7 = true) →
      ∃ t, exec .frExt s = .next t ∧
        framerTo { s.fr with
          blocks := s.fr.record.length / 8, outcome := .skipped (.skip .skipExtShort) } s t ∧
        nextFramerOp t = some .frHdr) ∧
    (s.fr.typeByte.getLsbD 7 = false →
      ∃ t, exec .frExt s = .next t ∧ framerTo { s.fr with blocks := 0 } s t ∧
        nextFramerOp t = some .frPad)

/-- R94: FR.PAD; `base` = 8·k + 2, with `k` = 0 when the flag is clear; past the record's end the record
is dropped (R93). -/
def Obligations.FrPadSkipsTwoBytes : Prop :=
  ∀ (s : State) (k : Nat), k = (if s.fr.typeByte.getLsbD 7 then s.fr.blocks else 0) →
    (s.fr.record.length < 8 * k + 2 → ∃ t, exec .frPad s = .next t ∧
      framerTo { s.fr with
        blocks := k, base := 8 * k + 2, outcome := .skipped (.skip .skipExtShort) } s t ∧
      nextFramerOp t = some .frHdr) ∧
    (8 * k + 2 ≤ s.fr.record.length → ∃ t, exec .frPad s = .next t ∧
      framerTo { s.fr with blocks := k, base := 8 * k + 2 } s t ∧
      (s.fr.typeByte.toNat % 128 = 2 → nextFramerOp t = some .frIssue))

/-- The first half of FR.ISSUE (R95) and R96: the frame stands in the buffer from offset 0, `frame_len`
is its length, the request carries the record's time; while a request is pending or a transaction runs it
is refused (R45, R169). That the bytes past the frame stay as they were is the model's choice (log entry 16). -/
def Obligations.FrIssuePresentsTheFrame : Prop :=
  ∀ s : State, s.frame.wf = true → s.fr.phase = .issue → s.fr.base ≤ s.fr.record.length →
    s.fr.record.length ≤ 65519 →
    (s.busy = false → s.req = none → ∃ t r, exec .frIssue s = .next t ∧
      t = { s with frame := t.frame, req := some r, fr := { s.fr with phase := t.fr.phase } } ∧
      r.frameLen.toNat = s.fr.record.length - s.fr.base ∧
      r.tsWhole = s.fr.whole ∧ r.tsFrac = s.fr.frac ∧
      (∀ a < r.frameLen.toNat, t.frame.read a = s.fr.record.getD (s.fr.bufferOffset a) 0) ∧
      (∀ a, r.frameLen.toNat ≤ a → t.frame.read a = s.frame.read a) ∧
      (∀ a, s.fr.recordOffset a = 16 + s.fr.bufferOffset a)) ∧
    (s.busy = true ∨ s.req ≠ none → exec .frIssue s = .refused .bufferOwned)

/-- The second half of FR.ISSUE (R95, R98): each outcome of the block mapped to the framer's; after a
FATAL or a stop the framer reads no further record. That a transaction counts as ended once no request
is pending is the model's handshake (log entry 15), and that a FATAL leaves the register of the record's
outcome as it was is the model's choice (log entry 27). -/
def Obligations.FrIssueMapsTheOutcome : Prop :=
  ∀ s : State, s.fr.phase = .wait →
    (s.busy = true ∨ s.req ≠ none → exec .frIssue s = .next s) ∧
    (s.busy = false → s.req = none →
      (s.status.outcome = .none → exec .frIssue s = .next s) ∧
      (s.status.outcome = .packet → s.status.stopped = false →
        ∃ t, exec .frIssue s = .next t ∧ framerTo { s.fr with outcome := .packet s.out } s t ∧
          nextFramerOp t = some .frHdr) ∧
      (s.status.outcome = .packet → s.status.stopped = true →
        ∃ t, exec .frIssue s = .next t ∧
          framerTo { s.fr with outcome := .packet s.out, run := .stopped } s t ∧
          nextFramerOp t = none) ∧
      (s.status.outcome = .skip →
        ∃ t, exec .frIssue s = .next t ∧
          framerTo { s.fr with outcome := .skipped s.status.reason } s t ∧
          nextFramerOp t = some .frHdr) ∧
      (s.status.outcome = .fatal →
        ∃ t, exec .frIssue s = .next t ∧
          framerTo { s.fr with run := .unsupported s.status.reason } s t ∧
          nextFramerOp t = none))

/-! ## Fetch, decode and step -/

/-- A step runs the operation the decoder reads at the point whose turn it is, and adds nothing. -/
def Obligations.StepRunsTheDecodedOperation : Prop :=
  ∀ (s : State) (p : Point) (sel : Selector) (i : Instr), s.rst = false → nextPoint s = some p →
    fetch s p = .ok sel → decode s.params sel = .ok i → step s = exec i s

/-- Words of R61 to R64 and R60, written out, at the default parameters. -/
def Obligations.DispatchWordsDecode : Prop :=
  decode Params.default ⟨.ethType, false, [0x81, 0x00]⟩ = .ok .ethVlan ∧
    decode Params.default ⟨.ethType, false, [0x08, 0x00]⟩ = .ok .ethIpv4 ∧
    decode Params.default ⟨.ethType, false, [0x86, 0xDD]⟩ = .ok .ethIpv6 ∧
    decode Params.default ⟨.ethType, false, [0x08, 0x06]⟩ = .ok (.ethOther 0x0806) ∧
    decode Params.default ⟨.ethInner, false, [0x81, 0x00]⟩ = .ok .ethQinq ∧
    decode Params.default ⟨.ip4Proto, true, [17]⟩ = .ok .ip4Udp ∧
    decode Params.default ⟨.ip4Proto, false, [17]⟩ = .ok .ip4UdpOff ∧
    decode Params.default ⟨.ip4Proto, true, [1]⟩ = .ok (.ip4Other 1) ∧
    decode Params.default ⟨.ip6Nh, true, [17]⟩ = .ok (.ip6Other 17) ∧
    decode Params.default ⟨.ip6Nh, false, [43]⟩ = .ok .ip6Routing ∧
    decode Params.default ⟨.frExt, false, [0x82]⟩ = .ok .frExt ∧
    decode Params.default ⟨.frIssue, false, [0x82]⟩ = .ok .frIssue

/-- R61 to R64, R66: every value of a dispatch field has exactly one operation, a default row carries
only what no other row takes, and the operation's own encoding is the value that selected it. -/
def Obligations.EveryDispatchValueHasItsOperation : Prop :=
  ∀ (P : Params) (sel : Selector),
    ((sel.point = .ethType ∨ sel.point = .ethInner) ∧ sel.bytes.length = 2 ∨
      (sel.point = .ip4Proto ∨ sel.point = .ip6Nh) ∧ sel.bytes.length = 1) →
    ∃ i, decode P sel = .ok i ∧ i.wf P = true ∧ (encode P i).point = sel.point ∧
      (encode P i).bytes = sel.bytes

/-- Tier 3: every well-formed operation decodes from its own encoding. -/
def Obligations.DecodeInvertsEncode : Prop :=
  ∀ (P : Params) (i : Instr), P.wf = true → i.wf P = true → decode P (encode P i) = .ok i

/-! ## The machine as a whole -/

/-- The reset state is a good state. -/
def Obligations.ResetStateIsGood : Prop := State.reset.inv = true

/-- Tier 3: every step keeps the good states: the canonical frame buffer, the latches in step with
`seq` (R26, R27), a status of one outcome (R145 to R147), 32-bit addresses and equal lengths in `out`
(R22), and in a stage every register written that is read there (R21, R37). -/
def Obligations.StepKeepsGoodStates : Prop :=
  ∀ s t : State, s.inv = true → step s = .next t → t.inv = true

/-- The other agents' steps keep the good states too. -/
def Obligations.AgentsKeepGoodStates : Prop :=
  ∀ s t : State, s.inv = true →
    (∀ a, producerStep a s = .next t → t.inv = true) ∧
    (∀ a, sinkStep a s = .next t → t.inv = true) ∧
    (∀ b, integratorStep b s = .next t → t.inv = true)

/-- Tier 3, R21 and R36: from a good state no step faults, and a step inside a stage always answers a
next state, so no `MemRead` fails and no register is read without a value. -/
def Obligations.GoodStatesNeverFault : Prop :=
  ∀ s : State, s.inv = true →
    ¬ faults (step s) ∧ (s.parsing = true → ∃ t, step s = .next t)

/-- R38, R14, R171: a step inside a stage leaves the frame buffer, the sampled inputs, the parameters,
the handshakes and the framer as they are, and writes the status only when it ends the transaction. -/
def Obligations.StageStepsKeepTheInputs : Prop :=
  ∀ s t : State, s.inv = true → s.rst = false → s.parsing = true → step s = .next t →
    (∀ a, t.frame.read a = s.frame.read a) ∧ t.frame = s.frame ∧ t.params = s.params ∧
    t.includeUdp = s.includeUdp ∧ t.cfgUdp = s.cfgUdp ∧ t.frameLen = s.frameLen ∧
    t.tsWhole = s.tsWhole ∧ t.tsFrac = s.tsFrac ∧ t.req = s.req ∧ t.ack = s.ack ∧ t.fr = s.fr ∧
    t.rst = s.rst ∧ t.free = s.free ∧ (t.parsing = true → t.status = s.status)

/-- R38: no operation of the block writes the frame buffer, whatever the state; of the framer's only
FR.ISSUE does. -/
def Obligations.OnlyFrIssueWritesTheFrame : Prop :=
  ∀ (i : Instr) (s t : State), exec i s = .next t →
    (i ≠ .frIssue → t.frame = s.frame ∧ ∀ a, t.frame.read a = s.frame.read a) ∧
    (isFramerOp i = false → t.fr = s.fr) ∧
    (isFramerOp i = true → t = { s with frame := t.frame, req := t.req, fr := t.fr }) ∧
    t.params = s.params ∧ t.includeUdp = s.includeUdp ∧ t.rst = s.rst ∧ t.free = s.free

/-- R73: the stages follow one another only along the rule's edges. -/
def Obligations.StagesFollowTheDiagram : Prop :=
  ∀ s t : State, s.inv = true → s.rst = false → s.parsing = true → step s = .next t →
    stageEdge s.seq t.seq = true

/-- R26, R27: while a latch is set only reset changes `seq`, the status or `out`. -/
def Obligations.LatchesHoldUntilReset : Prop :=
  ∀ s t : State, s.inv = true → s.rst = false →
    (s.status.aborted = true ∨ s.status.stopped = true) → step s = .next t →
    t.seq = s.seq ∧ t.status = s.status ∧ t.out = s.out

/-- R134, R135: a step of the IPv6 stage stays in it, skips or aborts, and writes no field of `out`. -/
def Obligations.Ipv6NeverDelivers : Prop :=
  ∀ s t : State, s.inv = true → s.rst = false → s.seq = .ipv6 → step s = .next t →
    t.out = s.out ∧
    (t.seq = .ipv6 ∧ t.status = s.status ∨ t.seq = .idle ∧ t.status.outcome = .skip ∨
      t.seq = .aborted ∧ t.status.outcome = .fatal)

/-- R136: the TCP stage, from its entry, ends as the rule's pseudocode says, within 7 operations. -/
def Obligations.TcpStageRunsItsPseudocode : Prop :=
  ∀ (s : State) (off : Half) (seg : Int), s.rst = false → s.seq = .tcp → s.point = .tcpHdr →
    s.dp.tOff = some off → off.toNat ≤ 78 → s.dp.segLen = some seg →
    ∃ n t, n ≤ 7 ∧ run n s = .next t ∧
      endsWith (parseTcp s.params s.frame s.frameLen.toNat off.toNat seg s.out) t

/-- R139: the UDP stage, from its entry, ends as the rule's pseudocode says, within 6 operations. -/
def Obligations.UdpStageRunsItsPseudocode : Prop :=
  ∀ (s : State) (off : Half), s.rst = false → s.seq = .udp → s.point = .udpHdr →
    s.dp.tOff = some off → off.toNat ≤ 78 →
    ∃ n t, n ≤ 6 ∧ run n s = .next t ∧
      endsWith (parseUdp s.params s.frame s.frameLen.toNat off.toNat s.out) t

/-- R116: the IPv4 stage, from its entry to the end of the transaction, in the rule's order. -/
def Obligations.Ipv4StageRunsItsPseudocode : Prop :=
  ∀ (s : State) (ip : Half), s.rst = false → s.seq = .ipv4 → s.point = .ip4Hdr →
    s.dp.cur = some ip → ip.toNat ≤ 18 →
    ∃ n t, n ≤ 14 ∧ run n s = .next t ∧
      endsWith (parseIpv4 s.params s.cfgUdp s.frame s.frameLen.toNat ip.toNat s.out) t

/-- Tier 3, R79, R81, R175: an accepted transaction, run operation by operation, ends within 19 of them
with exactly the outcome, reason and record of the one function `parse`, and leaves the frame alone. -/
def Obligations.TransactionComputesParse : Prop :=
  ∀ (s : State) (r : Request), s.rst = false → s.seq = .idle → s.req = some r →
    s.status.aborted = false → s.status.stopped = false → r.frameLen.toNat ≤ s.params.frameMax →
    ∃ n t, n ≤ 19 ∧ run n s = .next t ∧ t.frame = s.frame ∧
      endsWith (parse s.params s.includeUdp s.frame r) t

/-- R79, R80: the parse reads nothing of the buffer at or above `frame_len`. -/
def Obligations.ParseReadsOnlyTheFrame : Prop :=
  ∀ (P : Params) (cfgUdp : Bool) (F G : Memory) (r : Request),
    (∀ a < r.frameLen.toNat, F.read a = G.read a) → parse P cfgUdp F r = parse P cfgUdp G r

/-- R69: a tag inserted at offset 12 shifts the payload by 4 and changes nothing else. The rule's
'larger by exactly 4' is stated for a delivered record; of a record that is not delivered `out` is equal
as it stands (log entry 20). -/
def Obligations.VlanTagShiftsThePayloadByFour : Prop :=
  ∀ (P : Params) (cfgUdp : Bool) (F G : Memory) (r q : Request),
    12 ≤ r.frameLen.toNat → q.frameLen.toNat = r.frameLen.toNat + 4 →
    q.tsWhole = r.tsWhole → q.tsFrac = r.tsFrac →
    G.read 12 = P.ethertypeVlan.extractLsb' 8 8 → G.read 13 = P.ethertypeVlan.extractLsb' 0 8 →
    (∀ a, 12 ≤ a → G.read (a + 4) = F.read a) →
    F.beValue 12 2 ≠ P.ethertypeVlan.toNat →
    (parse P cfgUdp G q).outcome = (parse P cfgUdp F r).outcome ∧
    (parse P cfgUdp G q).reason = (parse P cfgUdp F r).reason ∧
    (parse P cfgUdp G q).out =
      { (parse P cfgUdp F r).out with
        payloadOff := (parse P cfgUdp F r).out.payloadOff +
          (if (parse P cfgUdp F r).outcome = .packet then 4 else 0) }

/-- R41, R22, R75: a delivered record names a payload inside the frame when the bounds check is on; its
kind is TCP or UDP, and its two lengths are equal. -/
def Obligations.DeliveredPayloadLiesInTheFrame : Prop :=
  ∀ (P : Params) (cfgUdp : Bool) (F : Memory) (r : Request),
    (parse P cfgUdp F r).outcome = .packet →
    (parse P cfgUdp F r).out.kind ≠ .none ∧
    (parse P cfgUdp F r).out.length = (parse P cfgUdp F r).out.payloadLen ∧
    (parse P cfgUdp F r).out.payloadOff.toNat ≤ 138 ∧
    (P.payloadBoundsCheck = true →
      (parse P cfgUdp F r).out.payloadOff.toNat + (parse P cfgUdp F r).out.payloadLen.toNat ≤
        r.frameLen.toNat)
end

