-- ==== Sys2Proof/Laws/Memory.lean ====
section
/-! SUPPORT. The frame buffer's laws: a read after a write, the canonical form kept by every operation,
and the value of a big-endian read. -/

namespace Sys2Proof.Machine

@[simp] theorem Memory.read_nil (a : Nat) : Memory.read [] a = Memory.unlisted := rfl

@[simp] theorem Memory.wf_nil : Memory.wf [] = true := rfl

theorem Memory.wfFrom_cons (lo a : Nat) (b : Byte) (m : Memory) :
    Memory.wfFrom lo ((a, b) :: m) = true ↔
      lo ≤ a ∧ a < 65536 ∧ b ≠ Memory.unlisted ∧ Memory.wfFrom (a + 1) m = true := by
  simp [Memory.wfFrom, and_assoc]

/-- A list that rises from `lo` rises from every lower offset. -/
theorem Memory.wfFrom_mono {lo lo' : Nat} (h : lo' ≤ lo) {m : Memory}
    (w : Memory.wfFrom lo m = true) : Memory.wfFrom lo' m = true := by
  cases m with
  | nil => rfl
  | cons c m =>
    obtain ⟨a, b⟩ := c
    rw [Memory.wfFrom_cons] at w ⊢
    exact ⟨by omega, w.2⟩

/-- Below its first offset a canonical list holds nothing. -/
theorem Memory.read_below {lo a : Nat} {m : Memory} (w : Memory.wfFrom lo m = true) (h : a < lo) :
    Memory.read m a = Memory.unlisted := by
  induction m generalizing lo with
  | nil => rfl
  | cons c m ih =>
    obtain ⟨a', b'⟩ := c
    rw [Memory.wfFrom_cons] at w
    have hne : a ≠ a' := by omega
    simp only [Memory.read, hne, if_false]
    exact ih w.2.2.2 (by omega)

theorem Memory.wfFrom_write {lo a : Nat} {b : Byte} {m : Memory} (w : Memory.wfFrom lo m = true)
    (hlo : lo ≤ a) (ha : a < 65536) : Memory.wfFrom lo (m.write a b) = true := by
  induction m generalizing lo with
  | nil =>
    simp only [Memory.write]
    split
    · rfl
    · rw [Memory.wfFrom_cons]; exact ⟨hlo, ha, ‹_›, rfl⟩
  | cons c m ih =>
    obtain ⟨a', b'⟩ := c
    have w' := (Memory.wfFrom_cons lo a' b' m).1 w
    simp only [Memory.write]
    split
    · split
      · exact w
      · rw [Memory.wfFrom_cons]
        refine ⟨hlo, ha, ‹_›, ?_⟩
        rw [Memory.wfFrom_cons]
        exact ⟨by omega, w'.2⟩
    · split
      · split
        · exact Memory.wfFrom_mono (by omega) w'.2.2.2
        · subst_vars
          rw [Memory.wfFrom_cons]
          exact ⟨hlo, ha, ‹_›, w'.2.2.2⟩
      · rw [Memory.wfFrom_cons]
        exact ⟨w'.1, w'.2.1, w'.2.2.1, ih w'.2.2.2 (by omega)⟩

/-- A write at a 16-bit offset keeps the canonical form. -/
theorem Memory.wf_write {m : Memory} (w : m.wf = true) {a : Nat} (ha : a < 65536) (b : Byte) :
    (m.write a b).wf = true := Memory.wfFrom_write w (Nat.zero_le a) ha

/-- A run of writes inside the 16-bit offsets keeps the canonical form. -/
theorem Memory.wf_writeBytes {m : Memory} (w : m.wf = true) {a : Nat} {bs : List Byte}
    (h : a + bs.length ≤ 65536) : (m.writeBytes a bs).wf = true := by
  induction bs generalizing m a with
  | nil => exact w
  | cons b bs ih =>
    simp only [List.length_cons] at h
    exact ih (Memory.wf_write w (by omega) b) (by omega)

theorem Memory.read_write_from {lo : Nat} {m : Memory} (w : Memory.wfFrom lo m = true) (a : Nat)
    (b : Byte) (c : Nat) : (m.write a b).read c = if c = a then b else m.read c := by
  induction m generalizing lo with
  | nil =>
    simp only [Memory.write]
    split
    · split <;> simp_all
    · simp [Memory.read]
  | cons d m ih =>
    obtain ⟨a', b'⟩ := d
    have w' := (Memory.wfFrom_cons lo a' b' m).1 w
    simp only [Memory.write]
    split
    · rename_i hlt
      have hb : Memory.read ((a', b') :: m) a = Memory.unlisted := by
        have hm : Memory.wfFrom a' ((a', b') :: m) = true := by
          rw [Memory.wfFrom_cons]; exact ⟨le_refl _, w'.2⟩
        exact Memory.read_below hm hlt
      split
      · rename_i hb0
        split
        · subst_vars; rw [hb]
        · rfl
      · simp only [Memory.read]
    · split
      · rename_i _ haa
        subst haa
        have hb : Memory.read m a = Memory.unlisted := Memory.read_below w'.2.2.2 (by omega)
        split
        · split
          · subst_vars; rw [hb]
          · rename_i hca; simp [Memory.read, hca]
        · simp only [Memory.read]
          split <;> simp_all
      · rename_i hle hne
        simp only [Memory.read, ih w'.2.2.2]
        split
        · have : ¬ c = a := by omega
          simp [this]
        · rfl

/-- A read after a write: the byte written there, and every other byte as before. -/
theorem Memory.read_write {m : Memory} (w : m.wf = true) (a : Nat) (b : Byte) (c : Nat) :
    (m.write a b).read c = if c = a then b else m.read c := Memory.read_write_from w a b c

/-- A read after a run of writes. -/
theorem Memory.read_writeBytes {m : Memory} (w : m.wf = true) {a : Nat} {bs : List Byte}
    (h : a + bs.length ≤ 65536) (c : Nat) :
    (m.writeBytes a bs).read c =
      if a ≤ c ∧ c < a + bs.length then bs.getD (c - a) 0 else m.read c := by
  induction bs generalizing m a with
  | nil =>
    simp [Memory.writeBytes]
  | cons b bs ih =>
    simp only [List.length_cons] at h ⊢
    simp only [Memory.writeBytes]
    rw [ih (Memory.wf_write w (by omega) b) (by omega), Memory.read_write w]
    by_cases hc : c = a
    · subst hc
      have h1 : ¬ (c + 1 ≤ c ∧ c < c + 1 + bs.length) := by omega
      have h2 : c ≤ c ∧ c < c + (bs.length + 1) := by omega
      simp [h2]
    · by_cases h1 : a + 1 ≤ c ∧ c < a + 1 + bs.length
      · have h2 : a ≤ c ∧ c < a + (bs.length + 1) := by omega
        have h3 : c - a = (c - (a + 1)) + 1 := by omega
        simp [h1, h2, h3]
      · have h2 : ¬ (a ≤ c ∧ c < a + (bs.length + 1)) := by omega
        rw [if_neg h1, if_neg h2, if_neg hc]

/-- A big-endian value of `n` bytes fits `8n` bits (R36). -/
theorem Memory.beValue_lt (m : Memory) (o n : Nat) : m.beValue o n < 256 ^ n := by
  induction n with
  | zero => simp [Memory.beValue]
  | succ n ih =>
    have h2 : (m.read (o + n)).toNat < 256 := (m.read (o + n)).isLt
    simp only [Memory.beValue, pow_succ]
    omega

@[simp] theorem Memory.beValue_one (m : Memory) (o : Nat) : m.beValue o 1 = (m.read o).toNat := by
  simp [Memory.beValue]

theorem Memory.beValue_two (m : Memory) (o : Nat) :
    m.beValue o 2 = (m.read o).toNat * 256 + (m.read (o + 1)).toNat := by
  simp [Memory.beValue]

theorem Memory.beValue_two_lt (m : Memory) (o : Nat) : m.beValue o 2 < 65536 :=
  Memory.beValue_lt m o 2

theorem Memory.beValue_four_lt (m : Memory) (o : Nat) : m.beValue o 4 < 4294967296 :=
  Memory.beValue_lt m o 4

/-- A value depends only on the bytes it is made of. -/
theorem Memory.beValue_congr {m m' : Memory} {o o' n : Nat}
    (h : ∀ i < n, m.read (o + i) = m'.read (o' + i)) : m.beValue o n = m'.beValue o' n := by
  induction n with
  | zero => rfl
  | succ n ih =>
    simp only [Memory.beValue, h n (by omega), ih fun i hi => h i (by omega)]

end Sys2Proof.Machine
end

