-- ==== Sys2Proof/Laws/State.lean ====
section
/-! SUPPORT. One lemma per field per named update of State, true by rfl, so that no proof unfolds a
record update. The guard lemmas of acceptance stand at the end. -/

namespace Sys2Proof.Machine

@[simp] theorem raiseSkip_params (r : SkipReason) (s : State) : (raiseSkip r s).params = s.params := rfl
@[simp] theorem raiseSkip_rst (r : SkipReason) (s : State) : (raiseSkip r s).rst = s.rst := rfl
@[simp] theorem raiseSkip_includeUdp (r : SkipReason) (s : State) : (raiseSkip r s).includeUdp = s.includeUdp := rfl
@[simp] theorem raiseSkip_req (r : SkipReason) (s : State) : (raiseSkip r s).req = s.req := rfl
@[simp] theorem raiseSkip_ack (r : SkipReason) (s : State) : (raiseSkip r s).ack = s.ack := rfl
@[simp] theorem raiseSkip_frame (r : SkipReason) (s : State) : (raiseSkip r s).frame = s.frame := rfl
@[simp] theorem raiseSkip_seq (r : SkipReason) (s : State) : (raiseSkip r s).seq = .idle := rfl
@[simp] theorem raiseSkip_point (r : SkipReason) (s : State) : (raiseSkip r s).point = .accept := rfl
@[simp] theorem raiseSkip_cfgUdp (r : SkipReason) (s : State) : (raiseSkip r s).cfgUdp = s.cfgUdp := rfl
@[simp] theorem raiseSkip_frameLen (r : SkipReason) (s : State) : (raiseSkip r s).frameLen = s.frameLen := rfl
@[simp] theorem raiseSkip_tsWhole (r : SkipReason) (s : State) : (raiseSkip r s).tsWhole = s.tsWhole := rfl
@[simp] theorem raiseSkip_tsFrac (r : SkipReason) (s : State) : (raiseSkip r s).tsFrac = s.tsFrac := rfl
@[simp] theorem raiseSkip_dp (r : SkipReason) (s : State) : (raiseSkip r s).dp = s.dp := rfl
@[simp] theorem raiseSkip_out (r : SkipReason) (s : State) : (raiseSkip r s).out = s.out := rfl
@[simp] theorem raiseSkip_status (r : SkipReason) (s : State) : (raiseSkip r s).status = { s.status with outcome := .skip, reason := .skip r } := rfl
@[simp] theorem raiseSkip_fr (r : SkipReason) (s : State) : (raiseSkip r s).fr = s.fr := rfl
@[simp] theorem raiseSkip_free (r : SkipReason) (s : State) : (raiseSkip r s).free = s.free := rfl

@[simp] theorem raiseFatal_params (r : FatalReason) (s : State) : (raiseFatal r s).params = s.params := rfl
@[simp] theorem raiseFatal_rst (r : FatalReason) (s : State) : (raiseFatal r s).rst = s.rst := rfl
@[simp] theorem raiseFatal_includeUdp (r : FatalReason) (s : State) : (raiseFatal r s).includeUdp = s.includeUdp := rfl
@[simp] theorem raiseFatal_req (r : FatalReason) (s : State) : (raiseFatal r s).req = s.req := rfl
@[simp] theorem raiseFatal_ack (r : FatalReason) (s : State) : (raiseFatal r s).ack = s.ack := rfl
@[simp] theorem raiseFatal_frame (r : FatalReason) (s : State) : (raiseFatal r s).frame = s.frame := rfl
@[simp] theorem raiseFatal_seq (r : FatalReason) (s : State) : (raiseFatal r s).seq = .aborted := rfl
@[simp] theorem raiseFatal_point (r : FatalReason) (s : State) : (raiseFatal r s).point = .accept := rfl
@[simp] theorem raiseFatal_cfgUdp (r : FatalReason) (s : State) : (raiseFatal r s).cfgUdp = s.cfgUdp := rfl
@[simp] theorem raiseFatal_frameLen (r : FatalReason) (s : State) : (raiseFatal r s).frameLen = s.frameLen := rfl
@[simp] theorem raiseFatal_tsWhole (r : FatalReason) (s : State) : (raiseFatal r s).tsWhole = s.tsWhole := rfl
@[simp] theorem raiseFatal_tsFrac (r : FatalReason) (s : State) : (raiseFatal r s).tsFrac = s.tsFrac := rfl
@[simp] theorem raiseFatal_dp (r : FatalReason) (s : State) : (raiseFatal r s).dp = s.dp := rfl
@[simp] theorem raiseFatal_out (r : FatalReason) (s : State) : (raiseFatal r s).out = s.out := rfl
@[simp] theorem raiseFatal_status (r : FatalReason) (s : State) : (raiseFatal r s).status = { s.status with outcome := .fatal, reason := .fatal r, aborted := true } := rfl
@[simp] theorem raiseFatal_fr (r : FatalReason) (s : State) : (raiseFatal r s).fr = s.fr := rfl
@[simp] theorem raiseFatal_free (r : FatalReason) (s : State) : (raiseFatal r s).free = s.free := rfl

@[simp] theorem goto_params (q : Seq) (p : Point) (s : State) : (goto q p s).params = s.params := rfl
@[simp] theorem goto_rst (q : Seq) (p : Point) (s : State) : (goto q p s).rst = s.rst := rfl
@[simp] theorem goto_includeUdp (q : Seq) (p : Point) (s : State) : (goto q p s).includeUdp = s.includeUdp := rfl
@[simp] theorem goto_req (q : Seq) (p : Point) (s : State) : (goto q p s).req = s.req := rfl
@[simp] theorem goto_ack (q : Seq) (p : Point) (s : State) : (goto q p s).ack = s.ack := rfl
@[simp] theorem goto_frame (q : Seq) (p : Point) (s : State) : (goto q p s).frame = s.frame := rfl
@[simp] theorem goto_seq (q : Seq) (p : Point) (s : State) : (goto q p s).seq = q := rfl
@[simp] theorem goto_point (q : Seq) (p : Point) (s : State) : (goto q p s).point = p := rfl
@[simp] theorem goto_cfgUdp (q : Seq) (p : Point) (s : State) : (goto q p s).cfgUdp = s.cfgUdp := rfl
@[simp] theorem goto_frameLen (q : Seq) (p : Point) (s : State) : (goto q p s).frameLen = s.frameLen := rfl
@[simp] theorem goto_tsWhole (q : Seq) (p : Point) (s : State) : (goto q p s).tsWhole = s.tsWhole := rfl
@[simp] theorem goto_tsFrac (q : Seq) (p : Point) (s : State) : (goto q p s).tsFrac = s.tsFrac := rfl
@[simp] theorem goto_dp (q : Seq) (p : Point) (s : State) : (goto q p s).dp = s.dp := rfl
@[simp] theorem goto_out (q : Seq) (p : Point) (s : State) : (goto q p s).out = s.out := rfl
@[simp] theorem goto_status (q : Seq) (p : Point) (s : State) : (goto q p s).status = s.status := rfl
@[simp] theorem goto_fr (q : Seq) (p : Point) (s : State) : (goto q p s).fr = s.fr := rfl
@[simp] theorem goto_free (q : Seq) (p : Point) (s : State) : (goto q p s).free = s.free := rfl

@[simp] theorem advance_params (d : Datapath) (p : Point) (s : State) : (advance d p s).params = s.params := rfl
@[simp] theorem advance_rst (d : Datapath) (p : Point) (s : State) : (advance d p s).rst = s.rst := rfl
@[simp] theorem advance_includeUdp (d : Datapath) (p : Point) (s : State) : (advance d p s).includeUdp = s.includeUdp := rfl
@[simp] theorem advance_req (d : Datapath) (p : Point) (s : State) : (advance d p s).req = s.req := rfl
@[simp] theorem advance_ack (d : Datapath) (p : Point) (s : State) : (advance d p s).ack = s.ack := rfl
@[simp] theorem advance_frame (d : Datapath) (p : Point) (s : State) : (advance d p s).frame = s.frame := rfl
@[simp] theorem advance_seq (d : Datapath) (p : Point) (s : State) : (advance d p s).seq = s.seq := rfl
@[simp] theorem advance_point (d : Datapath) (p : Point) (s : State) : (advance d p s).point = p := rfl
@[simp] theorem advance_cfgUdp (d : Datapath) (p : Point) (s : State) : (advance d p s).cfgUdp = s.cfgUdp := rfl
@[simp] theorem advance_frameLen (d : Datapath) (p : Point) (s : State) : (advance d p s).frameLen = s.frameLen := rfl
@[simp] theorem advance_tsWhole (d : Datapath) (p : Point) (s : State) : (advance d p s).tsWhole = s.tsWhole := rfl
@[simp] theorem advance_tsFrac (d : Datapath) (p : Point) (s : State) : (advance d p s).tsFrac = s.tsFrac := rfl
@[simp] theorem advance_dp (d : Datapath) (p : Point) (s : State) : (advance d p s).dp = d := rfl
@[simp] theorem advance_out (d : Datapath) (p : Point) (s : State) : (advance d p s).out = s.out := rfl
@[simp] theorem advance_status (d : Datapath) (p : Point) (s : State) : (advance d p s).status = s.status := rfl
@[simp] theorem advance_fr (d : Datapath) (p : Point) (s : State) : (advance d p s).fr = s.fr := rfl
@[simp] theorem advance_free (d : Datapath) (p : Point) (s : State) : (advance d p s).free = s.free := rfl

@[simp] theorem setTimestamp_params (v : Dword) (s : State) : (setTimestamp v s).params = s.params := rfl
@[simp] theorem setTimestamp_rst (v : Dword) (s : State) : (setTimestamp v s).rst = s.rst := rfl
@[simp] theorem setTimestamp_includeUdp (v : Dword) (s : State) : (setTimestamp v s).includeUdp = s.includeUdp := rfl
@[simp] theorem setTimestamp_req (v : Dword) (s : State) : (setTimestamp v s).req = s.req := rfl
@[simp] theorem setTimestamp_ack (v : Dword) (s : State) : (setTimestamp v s).ack = s.ack := rfl
@[simp] theorem setTimestamp_frame (v : Dword) (s : State) : (setTimestamp v s).frame = s.frame := rfl
@[simp] theorem setTimestamp_seq (v : Dword) (s : State) : (setTimestamp v s).seq = s.seq := rfl
@[simp] theorem setTimestamp_point (v : Dword) (s : State) : (setTimestamp v s).point = .ethHdr := rfl
@[simp] theorem setTimestamp_cfgUdp (v : Dword) (s : State) : (setTimestamp v s).cfgUdp = s.cfgUdp := rfl
@[simp] theorem setTimestamp_frameLen (v : Dword) (s : State) : (setTimestamp v s).frameLen = s.frameLen := rfl
@[simp] theorem setTimestamp_tsWhole (v : Dword) (s : State) : (setTimestamp v s).tsWhole = s.tsWhole := rfl
@[simp] theorem setTimestamp_tsFrac (v : Dword) (s : State) : (setTimestamp v s).tsFrac = s.tsFrac := rfl
@[simp] theorem setTimestamp_dp (v : Dword) (s : State) : (setTimestamp v s).dp = s.dp := rfl
@[simp] theorem setTimestamp_out (v : Dword) (s : State) : (setTimestamp v s).out = { s.out with timestamp := v } := rfl
@[simp] theorem setTimestamp_status (v : Dword) (s : State) : (setTimestamp v s).status = s.status := rfl
@[simp] theorem setTimestamp_fr (v : Dword) (s : State) : (setTimestamp v s).fr = s.fr := rfl
@[simp] theorem setTimestamp_free (v : Dword) (s : State) : (setTimestamp v s).free = s.free := rfl

@[simp] theorem setFramer_params (f : Framer) (s : State) : (setFramer f s).params = s.params := rfl
@[simp] theorem setFramer_rst (f : Framer) (s : State) : (setFramer f s).rst = s.rst := rfl
@[simp] theorem setFramer_includeUdp (f : Framer) (s : State) : (setFramer f s).includeUdp = s.includeUdp := rfl
@[simp] theorem setFramer_req (f : Framer) (s : State) : (setFramer f s).req = s.req := rfl
@[simp] theorem setFramer_ack (f : Framer) (s : State) : (setFramer f s).ack = s.ack := rfl
@[simp] theorem setFramer_frame (f : Framer) (s : State) : (setFramer f s).frame = s.frame := rfl
@[simp] theorem setFramer_seq (f : Framer) (s : State) : (setFramer f s).seq = s.seq := rfl
@[simp] theorem setFramer_point (f : Framer) (s : State) : (setFramer f s).point = s.point := rfl
@[simp] theorem setFramer_cfgUdp (f : Framer) (s : State) : (setFramer f s).cfgUdp = s.cfgUdp := rfl
@[simp] theorem setFramer_frameLen (f : Framer) (s : State) : (setFramer f s).frameLen = s.frameLen := rfl
@[simp] theorem setFramer_tsWhole (f : Framer) (s : State) : (setFramer f s).tsWhole = s.tsWhole := rfl
@[simp] theorem setFramer_tsFrac (f : Framer) (s : State) : (setFramer f s).tsFrac = s.tsFrac := rfl
@[simp] theorem setFramer_dp (f : Framer) (s : State) : (setFramer f s).dp = s.dp := rfl
@[simp] theorem setFramer_out (f : Framer) (s : State) : (setFramer f s).out = s.out := rfl
@[simp] theorem setFramer_status (f : Framer) (s : State) : (setFramer f s).status = s.status := rfl
@[simp] theorem setFramer_fr (f : Framer) (s : State) : (setFramer f s).fr = f := rfl
@[simp] theorem setFramer_free (f : Framer) (s : State) : (setFramer f s).free = s.free := rfl

@[simp] theorem acceptState_params (r : Request) (s : State) : (acceptState r s).params = s.params := rfl
@[simp] theorem acceptState_rst (r : Request) (s : State) : (acceptState r s).rst = s.rst := rfl
@[simp] theorem acceptState_includeUdp (r : Request) (s : State) : (acceptState r s).includeUdp = s.includeUdp := rfl
@[simp] theorem acceptState_req (r : Request) (s : State) : (acceptState r s).req = none := rfl
@[simp] theorem acceptState_ack (r : Request) (s : State) : (acceptState r s).ack = s.ack := rfl
@[simp] theorem acceptState_frame (r : Request) (s : State) : (acceptState r s).frame = s.frame := rfl
@[simp] theorem acceptState_seq (r : Request) (s : State) : (acceptState r s).seq = .eth := rfl
@[simp] theorem acceptState_point (r : Request) (s : State) : (acceptState r s).point = .tsConv := rfl
@[simp] theorem acceptState_cfgUdp (r : Request) (s : State) : (acceptState r s).cfgUdp = s.includeUdp := rfl
@[simp] theorem acceptState_frameLen (r : Request) (s : State) : (acceptState r s).frameLen = r.frameLen := rfl
@[simp] theorem acceptState_tsWhole (r : Request) (s : State) : (acceptState r s).tsWhole = r.tsWhole := rfl
@[simp] theorem acceptState_tsFrac (r : Request) (s : State) : (acceptState r s).tsFrac = r.tsFrac := rfl
@[simp] theorem acceptState_dp (r : Request) (s : State) : (acceptState r s).dp = Datapath.noValue := rfl
@[simp] theorem acceptState_out (r : Request) (s : State) : (acceptState r s).out = OutRecord.zero := rfl
@[simp] theorem acceptState_status (r : Request) (s : State) : (acceptState r s).status = s.status := rfl
@[simp] theorem acceptState_fr (r : Request) (s : State) : (acceptState r s).fr = s.fr := rfl
@[simp] theorem acceptState_free (r : Request) (s : State) : (acceptState r s).free = s.free := rfl

@[simp] theorem resetBlock_params (s : State) : (resetBlock s).params = s.params := rfl
@[simp] theorem resetBlock_rst (s : State) : (resetBlock s).rst = s.rst := rfl
@[simp] theorem resetBlock_includeUdp (s : State) : (resetBlock s).includeUdp = s.includeUdp := rfl
@[simp] theorem resetBlock_req (s : State) : (resetBlock s).req = State.reset.req := rfl
@[simp] theorem resetBlock_ack (s : State) : (resetBlock s).ack = State.reset.ack := rfl
@[simp] theorem resetBlock_frame (s : State) : (resetBlock s).frame = s.frame := rfl
@[simp] theorem resetBlock_seq (s : State) : (resetBlock s).seq = State.reset.seq := rfl
@[simp] theorem resetBlock_point (s : State) : (resetBlock s).point = State.reset.point := rfl
@[simp] theorem resetBlock_cfgUdp (s : State) : (resetBlock s).cfgUdp = State.reset.cfgUdp := rfl
@[simp] theorem resetBlock_frameLen (s : State) : (resetBlock s).frameLen = State.reset.frameLen := rfl
@[simp] theorem resetBlock_tsWhole (s : State) : (resetBlock s).tsWhole = State.reset.tsWhole := rfl
@[simp] theorem resetBlock_tsFrac (s : State) : (resetBlock s).tsFrac = State.reset.tsFrac := rfl
@[simp] theorem resetBlock_dp (s : State) : (resetBlock s).dp = State.reset.dp := rfl
@[simp] theorem resetBlock_out (s : State) : (resetBlock s).out = State.reset.out := rfl
@[simp] theorem resetBlock_status (s : State) : (resetBlock s).status = State.reset.status := rfl
@[simp] theorem resetBlock_fr (s : State) : (resetBlock s).fr = { Framer.off with stream := s.fr.stream } := rfl
@[simp] theorem resetBlock_free (s : State) : (resetBlock s).free = s.free := rfl

/-- A request is acceptable exactly when R71's precondition holds. -/
theorem acceptRefusal_eq_none (s : State) (r : Request) :
    acceptRefusal s r = none ↔
      s.status.aborted = false ∧ s.status.stopped = false ∧ s.seq = .idle ∧
        r.frameLen.toNat ≤ s.params.frameMax := by
  unfold acceptRefusal
  split
  · simp_all
  · split
    · simp_all
    · split
      · simp_all
      · split <;> simp_all

end Sys2Proof.Machine
end

