-- ==== Sys2Proof/Laws/Agents.lean ====
section
/-! SUPPORT. What the other agents' steps can do, and what the Sink sees, each said once. -/

namespace Sys2Proof.Machine

theorem inRun_eq_false {f : Framer} : f.inRun = false ↔ f.phase = .off ∨ f.phase = .done := by
  unfold Framer.inRun
  cases f.phase <;> simp

theorem bufferTaken_eq_false {s : State} :
    s.bufferTaken = false ↔ s.busy = false ∧ s.req = none := by
  simp [State.bufferTaken]

theorem bufferTaken_eq_true {s : State} :
    s.bufferTaken = true ↔ s.busy = true ∨ s.req ≠ none := by
  simp [State.bufferTaken, Option.isSome_iff_ne_none]

/-- A host's write is taken when the buffer is its own and no framer run is in progress. -/
theorem writeFrame_next {o : Half} {b : Byte} {s t : State}
    (h : producerStep (.writeFrame o b) s = .next t) :
    s.bufferTaken = false ∧ s.fr.inRun = false ∧
      t = { s with frame := s.frame.write o.toNat b } := by
  unfold producerStep at h
  dsimp only at h
  split at h
  · simp at h
  · rename_i hb
    split at h
    · simp at h
    · rename_i hf
      simp only [Host.Outcome.next.injEq] at h
      exact ⟨by simpa using hb, by simpa using hf, h.symm⟩

/-- A host's request is taken when the block would accept it, reset is released and no framer run is in
progress. -/
theorem present_next {r : Request} {s t : State} (h : producerStep (.present r) s = .next t) :
    acceptRefusal s r = none ∧ s.rst = false ∧ s.fr.inRun = false ∧
      t = { s with req := some r } := by
  unfold producerStep at h
  dsimp only at h
  split at h
  · simp at h
  · rename_i ha
    split at h
    · simp at h
    · rename_i hr
      split at h
      · simp at h
      · rename_i hf
        simp only [Host.Outcome.next.injEq] at h
        exact ⟨ha, by simpa using hr, by simpa using hf, h.symm⟩

/-- A framer run starts from reset, once, with the buffer free and no latch set. -/
theorem startRun_next {bs : List Byte} {s t : State} (h : producerStep (.startRun bs) s = .next t) :
    s.rst = false ∧ s.fr.phase = .off ∧ s.bufferTaken = false ∧
      s.status.aborted = false ∧ s.status.stopped = false ∧
      t = { s with fr := { Framer.off with stream := bs, phase := .hdr } } := by
  unfold producerStep at h
  dsimp only at h
  split at h
  · simp at h
  · rename_i hr
    split at h
    · simp at h
    · rename_i hp
      split at h
      · simp at h
      · rename_i hb
        split at h
        · simp at h
        · rename_i ha
          split at h
          · simp at h
          · rename_i hs
            simp only [Host.Outcome.next.injEq] at h
            exact ⟨by simpa using hr, by simpa using hp, by simpa using hb, by simpa using ha,
              by simpa using hs, h.symm⟩

/-- The Sink's step gives the one acknowledgement of a delivered record. -/
theorem sinkStep_next {a : SinkAct} {s t : State} (h : sinkStep a s = .next t) :
    s.seq = .deliver ∧ s.ack = none ∧ ∃ stop, t = { s with ack := some stop } := by
  unfold sinkStep at h
  split at h
  · simp at h
  · rename_i hq
    split at h
    · simp at h
    · rename_i hk
      refine ⟨by simpa using hq, by simpa using hk, ?_⟩
      cases a with
      | acknowledge stop => exact ⟨stop, by simpa using h.symm⟩
      | fail => exact ⟨true, by simpa using h.symm⟩

theorem viewValid_iff {s : State} : viewValid s = true ↔ s.seq = .deliver ∧ s.ack = none := by
  simp [viewValid]

/-- The offsets in the view are those of its bytes. -/
theorem inView_iff_viewOffset {s : State} {o : Nat} :
    inView s o = true ↔ ∃ i, viewOffset s i = some o := by
  simp only [inView, viewOffset, Bool.and_eq_true, decide_eq_true_eq]
  constructor
  · rintro ⟨h, h'⟩
    refine ⟨o - s.out.payloadOff.toNat, ?_⟩
    rw [if_pos (by omega)]
    congr 1
    omega
  · rintro ⟨i, h⟩
    split at h
    · simp only [Option.some.injEq] at h
      omega
    · simp at h

/-- A Sink read gives the frame's byte or a free value, and changes at most the counter. -/
theorem sinkReadByte_cases (o : Nat) (s : State) :
    (viewValid s = true ∧ inView s o = true ∧ o < s.frameLen.toNat ∧
        sinkReadByte o s = (s.frame.read o, s)) ∨
      (¬ (viewValid s = true ∧ inView s o = true ∧ o < s.frameLen.toNat) ∧
        sinkReadByte o s = (Config.viewByte s.free, { s with free := s.free + 1 })) := by
  unfold sinkReadByte
  split
  · rename_i h
    simp only [Bool.and_eq_true, decide_eq_true_eq] at h
    exact .inl ⟨h.1.1, h.1.2, h.2, rfl⟩
  · rename_i h
    simp only [Bool.and_eq_true, decide_eq_true_eq, and_assoc] at h
    exact .inr ⟨h, rfl⟩

end Sys2Proof.Machine
end

