-- ==== Sys2Proof/Laws/Operands.lean ====
section
/-! SUPPORT. The ranges of the assembled fields (00_scope.md R6, 30_encoding.md R58). -/

namespace Sys2Proof.Machine

/-- The IPv4 header length in bytes (R58). -/
theorem ihlBytesOf_toNat (v : Nat) : (ihlBytesOf v).toNat = v % 16 * 4 := by
  unfold ihlBytesOf
  rw [BitVec.toNat_ofNat]
  omega

/-- The TCP header length in bytes (R58). -/
theorem thlOf_toNat (v : Nat) : (thlOf v).toNat = v / 16 % 16 * 4 := by
  unfold thlOf
  rw [BitVec.toNat_ofNat]
  omega

/-- A widened address is the 32-bit number (R34, R121). -/
theorem addrOf_toNat {v : Nat} (h : v < 4294967296) : (addrOf v).toNat = v := by
  have e : (addrOf v).toNat = (BitVec.ofNat 32 v).toNat :=
    BitVec.toNat_setWidth_of_le (by decide)
  rw [e, BitVec.toNat_ofNat]
  omega

/-- The upper 32 bits of a widened address are 0 (R6). -/
theorem addrOf_upper (v : Nat) : (addrOf v).extractLsb' 32 32 = 0 := by
  apply BitVec.eq_of_getLsbD_eq
  intro i hi
  unfold addrOf
  rw [BitVec.getLsbD_extractLsb', BitVec.getLsbD_setWidth, BitVec.getLsbD_of_ge _ _ (by omega)]
  simp

end Sys2Proof.Machine
end

