-- ==== Sys2Proof/Laws/Ops.lean ====
section
/-! SUPPORT. What each shared operation can do, said once: the cases in which it answers a next state
or a fault, and its value where its condition holds. -/

namespace Sys2Proof.Machine

@[simp] theorem withReg_some {α : Type} (r : Reg) (x : α) (k : α → Result) :
    withReg r (some x) k = k x := rfl

@[simp] theorem withReg_none {α : Type} (r : Reg) (k : α → Result) :
    withReg r none k = .fault (.noValue r) := rfl

/-- `withReg` answers a next state only through the value the register holds. -/
theorem withReg_next {α : Type} {r : Reg} {v : Option α} {k : α → Result} {t : State}
    (h : withReg r v k = .next t) : ∃ x, v = some x ∧ k x = .next t := by
  cases v with
  | none => simp at h
  | some x => exact ⟨x, rfl, h⟩

/-- `MemRead` inside the frame reads the big-endian value (R36). -/
theorem memRead_inside {s : State} {o n : Nat} (h : o + n ≤ s.frameLen.toNat) (k : Nat → Result) :
    memRead s o n k = k (s.frame.beValue o n) := by simp [memRead, h]

/-- `MemRead` answers a next state only inside the frame. -/
theorem memRead_next {s : State} {o n : Nat} {k : Nat → Result} {t : State}
    (h : memRead s o n k = .next t) :
    o + n ≤ s.frameLen.toNat ∧ k (s.frame.beValue o n) = .next t := by
  unfold memRead at h
  split at h
  · exact ⟨‹_›, h⟩
  · simp at h

/-- `Need` on a long enough frame goes on (R37). -/
theorem need_enough {s : State} {o n : Nat} (h : o + n ≤ s.frameLen.toNat) (k : Result) :
    need s o n k = k := by
  have : ¬ (o + n > s.frameLen.toNat) := by omega
  simp [need, this]

/-- `Need` on a short frame skips (R37). -/
theorem need_short {s : State} {o n : Nat} (h : s.frameLen.toNat < o + n) (k : Result) :
    need s o n k = .next (raiseSkip .frameShort s) := by simp [need, h]

/-- `Need` answers a next state in one of two ways. -/
theorem need_next {s : State} {o n : Nat} {k : Result} {t : State} (h : need s o n k = .next t) :
    (s.frameLen.toNat < o + n ∧ t = raiseSkip .frameShort s) ∨
      (o + n ≤ s.frameLen.toNat ∧ k = .next t) := by
  unfold need at h
  split at h
  · left
    simp only [Host.Outcome.next.injEq] at h
    exact ⟨by omega, h.symm⟩
  · right
    exact ⟨by omega, h⟩

/-- What one step can do, said once: reset, nothing, or one decoded operation. -/
theorem step_next {s t : State} (h : step s = .next t) :
    (s.rst = true ∧ t = resetBlock s) ∨
      (s.rst = false ∧ nextPoint s = none ∧ t = s) ∨
      (s.rst = false ∧ ∃ p sel i, nextPoint s = some p ∧ fetch s p = .ok sel ∧
        decode s.params sel = .ok i ∧ exec i s = .next t) := by
  unfold step at h
  split at h
  · left
    simp only [Host.Outcome.next.injEq] at h
    exact ⟨‹_›, h.symm⟩
  · rename_i hr
    have hr' : s.rst = false := by simpa using hr
    right
    split at h
    · left
      simp only [Host.Outcome.next.injEq] at h
      exact ⟨hr', ‹_›, h.symm⟩
    · rename_i p hp
      right
      refine ⟨hr', p, ?_⟩
      unfold stepAt at h
      split at h
      · simp at h
      · rename_i sel hf
        split at h
        · simp at h
        · rename_i i hd
          exact ⟨sel, i, hp, hf, hd, h⟩

end Sys2Proof.Machine
end

