-- ==== Sys2Proof/Laws/PerInstr.lean ====
section
/-! SUPPORT. What holds of every operation as syntax, one lemma for each constructor. -/

namespace Sys2Proof.Laws

/-- How many selecting bytes a point takes (R51 to R56, R60 to R66): two at an ethertype dispatch, one where
one byte or one bit of a byte selects, none where the table's row has mask 0. -/
def selectorWidth : Point → Nat
  | .ethType | .ethInner => 2
  | .ip4Flags | .ip4Proto | .ip6Nh | .tpWrite | .ack | .frExt | .frIssue => 1
  | .accept | .tsConv | .ethHdr | .ip4Hdr | .ip4Ihl | .ip4Addr | .ip4SegLen | .ip4TOff | .ip6Hdr
  | .tcpHdr | .tcpDoff | .tcpPayload | .udpHdr | .udpPayload | .tpNegLen | .tpBounds | .deliver
  | .frHdr | .frRead | .frType | .frPad => 0

/-- An operation's encoding has exactly the bytes that its point takes. -/
def EncodedWidth.Statement (i : Instr) : Prop :=
  ∀ P : Params, (encode P i).bytes.length = selectorWidth (encode P i).point

theorem EncodedWidth.txnAccept : EncodedWidth.Statement .txnAccept := fun _ => rfl
theorem EncodedWidth.tsConv : EncodedWidth.Statement .tsConv := fun _ => rfl
theorem EncodedWidth.ethHdr : EncodedWidth.Statement .ethHdr := fun _ => rfl
theorem EncodedWidth.ethVlan : EncodedWidth.Statement .ethVlan := fun _ => rfl
theorem EncodedWidth.ethIpv4 : EncodedWidth.Statement .ethIpv4 := fun _ => rfl
theorem EncodedWidth.ethIpv4Inner : EncodedWidth.Statement .ethIpv4Inner := fun _ => rfl
theorem EncodedWidth.ethIpv6 : EncodedWidth.Statement .ethIpv6 := fun _ => rfl
theorem EncodedWidth.ethIpv6Inner : EncodedWidth.Statement .ethIpv6Inner := fun _ => rfl
theorem EncodedWidth.ethQinq : EncodedWidth.Statement .ethQinq := fun _ => rfl
theorem EncodedWidth.ethOther (ethertype : Half) : EncodedWidth.Statement (.ethOther ethertype) := fun _ => rfl
theorem EncodedWidth.ethOtherInner (ethertype : Half) : EncodedWidth.Statement (.ethOtherInner ethertype) := fun _ => rfl
theorem EncodedWidth.ip4Hdr : EncodedWidth.Statement .ip4Hdr := fun _ => rfl
theorem EncodedWidth.ip4Other (proto : Byte) : EncodedWidth.Statement (.ip4Other proto) := fun _ => rfl
theorem EncodedWidth.ip4Mf : EncodedWidth.Statement .ip4Mf := fun _ => rfl
theorem EncodedWidth.ip4Ihl : EncodedWidth.Statement .ip4Ihl := fun _ => rfl
theorem EncodedWidth.ip4Addr : EncodedWidth.Statement .ip4Addr := fun _ => rfl
theorem EncodedWidth.ip4SegLen : EncodedWidth.Statement .ip4SegLen := fun _ => rfl
theorem EncodedWidth.ip4TOff : EncodedWidth.Statement .ip4TOff := fun _ => rfl
theorem EncodedWidth.ip4Tcp : EncodedWidth.Statement .ip4Tcp := fun _ => rfl
theorem EncodedWidth.ip4Udp : EncodedWidth.Statement .ip4Udp := fun _ => rfl
theorem EncodedWidth.ip4UdpOff : EncodedWidth.Statement .ip4UdpOff := fun _ => rfl
theorem EncodedWidth.ip6Hdr : EncodedWidth.Statement .ip6Hdr := fun _ => rfl
theorem EncodedWidth.ip6Tcp : EncodedWidth.Statement .ip6Tcp := fun _ => rfl
theorem EncodedWidth.ip6Hopopt : EncodedWidth.Statement .ip6Hopopt := fun _ => rfl
theorem EncodedWidth.ip6Routing : EncodedWidth.Statement .ip6Routing := fun _ => rfl
theorem EncodedWidth.ip6Fragment : EncodedWidth.Statement .ip6Fragment := fun _ => rfl
theorem EncodedWidth.ip6Other (nh : Byte) : EncodedWidth.Statement (.ip6Other nh) := fun _ => rfl
theorem EncodedWidth.tcpHdr : EncodedWidth.Statement .tcpHdr := fun _ => rfl
theorem EncodedWidth.tcpDoff : EncodedWidth.Statement .tcpDoff := fun _ => rfl
theorem EncodedWidth.tcpPayload : EncodedWidth.Statement .tcpPayload := fun _ => rfl
theorem EncodedWidth.udpHdr : EncodedWidth.Statement .udpHdr := fun _ => rfl
theorem EncodedWidth.udpPayload : EncodedWidth.Statement .udpPayload := fun _ => rfl
theorem EncodedWidth.tpNegLen : EncodedWidth.Statement .tpNegLen := fun _ => rfl
theorem EncodedWidth.tpBounds : EncodedWidth.Statement .tpBounds := fun _ => rfl
theorem EncodedWidth.tpWrite (k : Transport) : EncodedWidth.Statement (.tpWrite k) := by
  cases k <;> exact fun _ => rfl
theorem EncodedWidth.txnDeliver : EncodedWidth.Statement .txnDeliver := fun _ => rfl
theorem EncodedWidth.txnAck (stop : Bool) : EncodedWidth.Statement (.txnAck stop) := fun _ => rfl
theorem EncodedWidth.frHdr : EncodedWidth.Statement .frHdr := fun _ => rfl
theorem EncodedWidth.frRead : EncodedWidth.Statement .frRead := fun _ => rfl
theorem EncodedWidth.frType : EncodedWidth.Statement .frType := fun _ => rfl
theorem EncodedWidth.frExt : EncodedWidth.Statement .frExt := fun _ => rfl
theorem EncodedWidth.frPad : EncodedWidth.Statement .frPad := fun _ => rfl
theorem EncodedWidth.frIssue : EncodedWidth.Statement .frIssue := fun _ => rfl

end Sys2Proof.Laws
end

