-- ==== Sys2Proof/Laws/Step.lean ====
section
/-! SUPPORT. What one step does at each point: the operation the decoder reads there, said once, so that
no later proof unfolds the fetch or the decoder. -/

namespace Sys2Proof.Machine

/-- A 16-bit field's two wire bytes read back as the field. -/
@[simp] theorem be16_bytesOf16 (v : Half) :
    be16 (v.extractLsb' 8 8) (v.extractLsb' 0 8) = v := by
  apply BitVec.eq_of_getLsbD_eq
  intro i hi
  unfold be16
  rw [BitVec.getLsbD_append]
  by_cases h : i < 8
  · simp [h]
  · simp only [h, if_false, BitVec.getLsbD_extractLsb']
    rw [show 8 + (i - 8) = i by omega]
    simp [show i - 8 < 8 by omega]

theorem stepAt_accept (s : State) : stepAt .accept s = exec .txnAccept s := rfl

theorem stepAt_tsConv (s : State) : stepAt .tsConv s = exec .tsConv s := rfl

/-- TS.CONV writes some timestamp and nothing else. Cited where the value does not matter, it keeps the
kernel from unfolding the timestamp's arithmetic. -/
theorem stepAt_tsConv_writes (s : State) :
    ∃ v, stepAt .tsConv s = .next (setTimestamp v s) := ⟨_, (stepAt_tsConv s).trans rfl⟩

theorem stepAt_ethHdr (s : State) : stepAt .ethHdr s = exec .ethHdr s := rfl

theorem stepAt_ip4Hdr (s : State) : stepAt .ip4Hdr s = exec .ip4Hdr s := rfl

theorem stepAt_ip4Ihl (s : State) : stepAt .ip4Ihl s = exec .ip4Ihl s := rfl

theorem stepAt_ip4Addr (s : State) : stepAt .ip4Addr s = exec .ip4Addr s := rfl

theorem stepAt_ip4SegLen (s : State) : stepAt .ip4SegLen s = exec .ip4SegLen s := rfl

theorem stepAt_ip4TOff (s : State) : stepAt .ip4TOff s = exec .ip4TOff s := rfl

theorem stepAt_ip6Hdr (s : State) : stepAt .ip6Hdr s = exec .ip6Hdr s := rfl

theorem stepAt_tcpHdr (s : State) : stepAt .tcpHdr s = exec .tcpHdr s := rfl

theorem stepAt_tcpDoff (s : State) : stepAt .tcpDoff s = exec .tcpDoff s := rfl

theorem stepAt_tcpPayload (s : State) : stepAt .tcpPayload s = exec .tcpPayload s := rfl

theorem stepAt_udpHdr (s : State) : stepAt .udpHdr s = exec .udpHdr s := rfl

theorem stepAt_udpPayload (s : State) : stepAt .udpPayload s = exec .udpPayload s := rfl

theorem stepAt_tpNegLen (s : State) : stepAt .tpNegLen s = exec .tpNegLen s := rfl

theorem stepAt_tpBounds (s : State) : stepAt .tpBounds s = exec .tpBounds s := rfl

theorem stepAt_frHdr (s : State) : stepAt .frHdr s = exec .frHdr s := rfl

theorem stepAt_frRead (s : State) : stepAt .frRead s = exec .frRead s := rfl

theorem stepAt_frType (s : State) : stepAt .frType s = exec .frType s := rfl

theorem stepAt_frPad (s : State) : stepAt .frPad s = exec .frPad s := rfl

theorem stepAt_ip4Flags (s : State) : stepAt .ip4Flags s = exec .ip4Mf s := rfl

theorem stepAt_deliver (s : State) : stepAt .deliver s = exec .txnDeliver s := rfl

theorem stepAt_ethType {s : State} {t : Half} (h : s.dp.ethertype = some t) :
    stepAt .ethType s = exec (decodeEthertype s.params t) s := by
  simp [stepAt, fetch, selectorBytes, regBytes, h, bytesOf16, decode]

theorem stepAt_ethInner {s : State} {t : Half} (h : s.dp.ethertype = some t) :
    stepAt .ethInner s = exec (decodeInnerEthertype s.params t) s := by
  simp [stepAt, fetch, selectorBytes, regBytes, h, bytesOf16, decode]

theorem stepAt_ip4Proto {s : State} {p : Byte} (h : s.dp.proto = some p) :
    stepAt .ip4Proto s = exec (decodeProto s.params s.cfgUdp p) s := by
  simp [stepAt, fetch, selectorBytes, regBytes, h, decode]

theorem stepAt_ip6Nh {s : State} {p : Byte} (h : s.dp.nh = some p) :
    stepAt .ip6Nh s = exec (decodeNh s.params p) s := by
  simp [stepAt, fetch, selectorBytes, regBytes, h, decode]

theorem stepAt_tpWrite_tcp {s : State} (h : s.seq = .tcp) :
    stepAt .tpWrite s = exec (.tpWrite .tcp) s := by
  unfold stepAt fetch selectorBytes
  rw [h]
  rfl

theorem stepAt_tpWrite_udp {s : State} (h : s.seq = .udp) :
    stepAt .tpWrite s = exec (.tpWrite .udp) s := by
  unfold stepAt fetch selectorBytes
  rw [h]
  rfl

theorem stepAt_ack {s : State} {stop : Bool} (h : s.ack = some stop) :
    stepAt .ack s = exec (.txnAck stop) s := by
  unfold stepAt fetch selectorBytes
  rw [h]
  cases stop <;> rfl

theorem stepAt_frExt (s : State) :
    stepAt .frExt s = exec (if s.fr.typeByte.getLsbD 7 then .frExt else .frPad) s := rfl

theorem stepAt_frIssue {s : State} (h : s.fr.recType = 2) :
    stepAt .frIssue s = exec .frIssue s := by
  unfold Framer.recType at h
  unfold stepAt fetch selectorBytes decode
  simp only [h, if_true]

end Sys2Proof.Machine
end

