-- ==== Sys2Proof/Laws/Safety.lean ====
section
/-! SUPPORT. How the notions of Safety.lean read on the named updates. A proof that lets the kernel compare
`out` before and after TS.CONV by unfolding would unfold the timestamp's arithmetic; these lemmas say
what is needed without it. -/

namespace Sys2Proof.Machine

/-- `outLegal` does not look at the timestamp. -/
@[simp] theorem outLegal_timestamp (o : OutRecord) (v : Dword) :
    outLegal { o with timestamp := v } = outLegal o := rfl

@[simp] theorem outLegal_zero : outLegal OutRecord.zero = true := rfl

@[simp] theorem statusLegal_zero : statusLegal Status.zero = true := rfl

@[simp] theorem framerLegal_off (bs : List Byte) :
    framerLegal { Framer.off with stream := bs } = true := by
  simp [framerLegal, Framer.off]

theorem skipsTo_raiseSkip (r : SkipReason) (s : State) : skipsTo r s (raiseSkip r s) := rfl

theorem abortsTo_raiseFatal (r : FatalReason) (s : State) : abortsTo r s (raiseFatal r s) := rfl

@[simp] theorem run_zero (s : State) : run 0 s = .next s := rfl

theorem run_succ {s t : State} (h : step s = .next t) (n : Nat) : run (n + 1) s = run n t := by
  simp only [run, h]

/-- Runs chain. -/
theorem run_add {s t : State} {n : Nat} (h : run n s = .next t) (m : Nat) :
    run (n + m) s = run m t := by
  induction n generalizing s with
  | zero =>
    simp only [run_zero, Host.Outcome.next.injEq] at h
    rw [Nat.zero_add, h]
  | succ n ih =>
    unfold run at h
    split at h
    · rename_i u hu
      rw [Nat.succ_add, run_succ hu]
      exact ih h
    · simp at h
    · simp at h

/-- In a stage the step is the operation at `point`. -/
theorem step_parsing {s : State} (hr : s.rst = false) (hp : s.parsing = true) :
    step s = stepAt s.point s := by
  have hn : nextPoint s = some s.point := by
    unfold State.parsing at hp
    unfold nextPoint
    cases hq : s.seq <;> rw [hq] at hp <;> simp_all
  unfold step
  rw [hn, hr]
  rfl

end Sys2Proof.Machine
end

