-- ==== Sys2Proof/Laws/Timestamp.lean ====
section
/-! SUPPORT. The rounding of R100 case by case, and the arithmetic of its constants: 10^9 = 512 · 1953125
and 2^32 = 512 · 2^23 (R102). The big literals make a decision procedure on the whole goal slow, so
these say once what later proofs need. -/

namespace Sys2Proof.Machine

theorem fracNs_above {tie : TsTie} {frac : Nat} (h : 2147483648 < frac * 1000000000 % 4294967296) :
    fracNs tie frac = frac * 1000000000 / 4294967296 + 1 := by
  unfold fracNs roundQuotient
  dsimp only
  rw [if_pos h]

theorem fracNs_below {tie : TsTie} {frac : Nat} (h : frac * 1000000000 % 4294967296 < 2147483648) :
    fracNs tie frac = frac * 1000000000 / 4294967296 := by
  unfold fracNs roundQuotient
  dsimp only
  rw [if_neg (Nat.not_lt.2 (Nat.le_of_lt h)), if_pos h]

theorem fracNs_tie_halfUp {frac : Nat} (h : frac * 1000000000 % 4294967296 = 2147483648) :
    fracNs .halfUp frac = frac * 1000000000 / 4294967296 + 1 := by
  unfold fracNs roundQuotient
  dsimp only
  rw [h, if_neg (Nat.lt_irrefl _), if_neg (Nat.lt_irrefl _)]

theorem fracNs_tie_halfEven {frac : Nat} (h : frac * 1000000000 % 4294967296 = 2147483648) :
    fracNs .halfEven frac =
      frac * 1000000000 / 4294967296 + frac * 1000000000 / 4294967296 % 2 := by
  unfold fracNs roundQuotient
  dsimp only
  rw [h, if_neg (Nat.lt_irrefl _), if_neg (Nat.lt_irrefl _)]

/-- The whole part of `frac · 10^9 / 2^32` (R100's `q`). -/
theorem wholeNanos_lt {frac : Nat} (h : frac < 4294967296) :
    frac * 1000000000 / 4294967296 < 1000000000 := by
  rw [Nat.div_lt_iff_lt_mul (by decide)]
  omega

/-- The remainder of R100, with the common factor 512 taken out (R102). -/
theorem remainder_eq (frac : Nat) :
    frac * 1000000000 % 4294967296 = 512 * (frac * 1953125 % 8388608) := by
  have h := Nat.mul_mod_mul_left 512 (frac * 1953125) 8388608
  rw [← h]
  congr 1
  omega

/-- 1953125 is invertible modulo 2^23 (R102). -/
theorem mod_eq_of_scaled (frac : Nat) :
    frac % 8388608 = frac * 1953125 % 8388608 * 3054701 % 8388608 := by
  have e : frac * 1953125 * 3054701 = frac + 8388608 * (frac * 711228) := by
    rw [Nat.mul_assoc, show 1953125 * 3054701 = 1 + 8388608 * 711228 by decide, Nat.mul_add,
      Nat.mul_one, Nat.mul_left_comm]
  rw [Nat.mod_mul_mod, e, Nat.add_mul_mod_self_left]

end Sys2Proof.Machine
end

