-- ==== Sys2Proof/Tests/Slice0.lean ====
section
/-! SUPPORT. The author's own tests. Expected values come from the spec: the examples of the operation
rules, the encodings of 30_encoding.md, the vectors of 95_test_vectors.md (named T, V, F there). A
`witness_` theorem shows states and operands that meet the hypotheses of the obligation it names, at
the boundaries where its clauses meet. -/

namespace Sys2Proof.Tests

open Sys2Proof Sys2Proof.Machine

/-! ## Helpers -/

/-- What `f` reads of the next state. -/
def after {α : Type} (f : State → α) : Result → Option α
  | .next t => some (f t)
  | .fault _ => none
  | .refused _ => none

/-- No datapath register has a value. -/
def d0 : Datapath := Datapath.noValue

/-- A state inside stage `q` at `p`, with `n` frame bytes, the buffer `F` and the registers `d`. -/
def mid (q : Seq) (p : Point) (n : Half) (F : Memory) (d : Datapath) : State :=
  { State.reset with seq := q, point := p, frameLen := n, frame := F, dp := d }

/-- The default parameters without the strict header checks. -/
def lax : Params := { Params.default with strictHdrLen := false }

/-- A request for a frame of `n` bytes at time 0. -/
def ask (n : Half) : Request := ⟨n, 0, 0⟩

/-- The frame of V11: IPv4, total length 45, TCP, 5 payload bytes. -/
def tcpFrame : Memory :=
  [(0, 2), (5, 2), (6, 2), (11, 1), (12, 0x08), (14, 0x45), (17, 45), (22, 0x40), (23, 6), (26, 0x0A),
   (29, 1), (30, 0x0A), (33, 2), (34, 0x30), (35, 0x39), (37, 0x50), (46, 0x50), (47, 0x18),
   (48, 0xFF), (49, 0xFF), (54, 0xA0), (55, 0xA1), (56, 0xA2), (57, 0xA3), (58, 0xA4)]

/-- The frame of V33: IPv4, total length 32, UDP length 12, 4 payload bytes. -/
def udpFrame : Memory :=
  [(12, 0x08), (14, 0x45), (17, 32), (23, 17), (26, 0x0A), (29, 1), (30, 0x0A), (33, 2), (34, 0x30),
   (35, 0x39), (37, 0x35), (39, 12), (42, 0xA0), (43, 0xA1), (44, 0xA2), (45, 0xA3)]

/-- A framer at phase `p` with `bs` as its record, type byte `b`. -/
def framer (p : Phase) (b : Byte) (bs : List Byte) : Framer :=
  { Framer.off with phase := p, typeByte := b, record := bs }

/-- The reset state with the framer `f`. -/
def withFramer (f : Framer) : State := { State.reset with fr := f }

/-! ## Well-formedness: an ill-formed term for each check -/

theorem test_wf_ethOther_refused : (Instr.ethOther 0x0800).wf Params.default = false := by decide
theorem test_wf_ethOtherInner_refused : (Instr.ethOtherInner 0x8100).wf Params.default = false := by decide
theorem test_wf_ip4Other_refused : (Instr.ip4Other 17).wf Params.default = false := by decide
theorem test_wf_ip6Other_refused : (Instr.ip6Other 44).wf Params.default = false := by decide
theorem test_wf_operands_accepted :
    (Instr.ethOther 0x0806).wf Params.default = true ∧ (Instr.ip4Other 1).wf Params.default = true ∧
      (Instr.ip6Other 17).wf Params.default = true := by decide

theorem test_wf_default : Params.default.wf = true := by decide
theorem test_wf_frameMax : (Params.wf { Params.default with frameMax := 65536 }) = false := by decide
theorem test_wf_vlan_ipv4 : (Params.wf { Params.default with ethertypeVlan := 0x0800 }) = false := by decide
theorem test_wf_vlan_ipv6 : (Params.wf { Params.default with ethertypeVlan := 0x86DD }) = false := by decide
theorem test_wf_ipv4_ipv6 : (Params.wf { Params.default with ethertypeIpv4 := 0x86DD }) = false := by decide
theorem test_wf_tcp_udp : (Params.wf { Params.default with protoUdp := 6 }) = false := by decide
theorem test_wf_hopopt_routing : (Params.wf { Params.default with nhHopopt := 43 }) = false := by decide
theorem test_wf_hopopt_fragment : (Params.wf { Params.default with nhHopopt := 44 }) = false := by decide
theorem test_wf_routing_fragment : (Params.wf { Params.default with nhRouting := 44 }) = false := by decide
theorem test_wf_hopopt_tcp : (Params.wf { Params.default with nhHopopt := 6 }) = false := by decide
theorem test_wf_routing_tcp : (Params.wf { Params.default with nhRouting := 6 }) = false := by decide
theorem test_wf_fragment_tcp : (Params.wf { Params.default with nhFragment := 6 }) = false := by decide

/-! ## Decoding: the words of R59 to R66 and opcode_table.json, written out -/

/-- The decoder at the default parameters. -/
def dec (p : Point) (udp : Bool) (bs : List Byte) : Option Instr :=
  match decode Params.default ⟨p, udp, bs⟩ with
  | .ok i => some i
  | .error _ => none

theorem test_decode_ethertypes :
    dec .ethType false [0b10000001, 0b00000000] = some .ethVlan ∧
    dec .ethType false [0b00001000, 0b00000000] = some .ethIpv4 ∧
    dec .ethType false [0b10000110, 0b11011101] = some .ethIpv6 ∧
    dec .ethType false [0b00001000, 0b00000110] = some (.ethOther 0x0806) ∧
    dec .ethType false [0b10001000, 0b10101000] = some (.ethOther 0x88A8) := by decide

theorem test_decode_inner_ethertypes :
    dec .ethInner false [0b00001000, 0b00000000] = some .ethIpv4Inner ∧
    dec .ethInner false [0b10000110, 0b11011101] = some .ethIpv6Inner ∧
    dec .ethInner false [0b10000001, 0b00000000] = some .ethQinq ∧
    dec .ethInner false [0b10001000, 0b10101000] = some (.ethOtherInner 0x88A8) := by decide

theorem test_decode_protocols :
    dec .ip4Proto false [0b00000110] = some .ip4Tcp ∧ dec .ip4Proto true [0b00000110] = some .ip4Tcp ∧
    dec .ip4Proto true [0b00010001] = some .ip4Udp ∧
    dec .ip4Proto false [0b00010001] = some .ip4UdpOff ∧
    dec .ip4Proto true [0b00000001] = some (.ip4Other 1) := by decide

theorem test_decode_next_headers :
    dec .ip6Nh false [0b00000110] = some .ip6Tcp ∧ dec .ip6Nh false [0b00000000] = some .ip6Hopopt ∧
    dec .ip6Nh false [0b00101011] = some .ip6Routing ∧
    dec .ip6Nh false [0b00101100] = some .ip6Fragment ∧
    dec .ip6Nh true [0b00010001] = some (.ip6Other 17) ∧
    dec .ip6Nh false [0b00111011] = some (.ip6Other 59) := by decide

theorem test_decode_stage_operations :
    dec .accept false [] = some .txnAccept ∧ dec .tsConv false [] = some .tsConv ∧
    dec .ethHdr false [] = some .ethHdr ∧ dec .ip4Hdr false [] = some .ip4Hdr ∧
    dec .ip4Flags false [0b00100000] = some .ip4Mf ∧ dec .ip4Ihl false [] = some .ip4Ihl ∧
    dec .ip4Addr false [] = some .ip4Addr ∧ dec .ip4SegLen false [] = some .ip4SegLen ∧
    dec .ip4TOff false [] = some .ip4TOff ∧ dec .ip6Hdr false [] = some .ip6Hdr := by decide

theorem test_decode_transport_operations :
    dec .tcpHdr false [] = some .tcpHdr ∧ dec .tcpDoff false [] = some .tcpDoff ∧
    dec .tcpPayload false [] = some .tcpPayload ∧ dec .udpHdr false [] = some .udpHdr ∧
    dec .udpPayload false [] = some .udpPayload ∧ dec .tpNegLen false [] = some .tpNegLen ∧
    dec .tpBounds false [] = some .tpBounds ∧ dec .tpWrite false [1] = some (.tpWrite .tcp) ∧
    dec .tpWrite false [2] = some (.tpWrite .udp) ∧ dec .deliver false [] = some .txnDeliver ∧
    dec .ack false [0] = some (.txnAck false) ∧ dec .ack false [1] = some (.txnAck true) := by decide

theorem test_decode_framer_operations :
    dec .frHdr false [] = some .frHdr ∧ dec .frRead false [] = some .frRead ∧
    dec .frType false [] = some .frType ∧ dec .frExt false [0b10000010] = some .frExt ∧
    dec .frExt false [0b00000010] = some .frPad ∧ dec .frPad false [] = some .frPad ∧
    dec .frIssue false [0b00000010] = some .frIssue ∧
    dec .frIssue false [0b10000010] = some .frIssue := by decide

theorem test_decode_refuses :
    dec .ethType false [0x08] = none ∧ dec .ip4Proto false [] = none ∧ dec .tpWrite false [3] = none ∧
    dec .ack false [2] = none ∧ dec .frIssue false [5] = none := by decide

theorem test_table_words :
    decodeTableWord 16 0x8100 = some .ethVlan ∧ decodeTableWord 16 0x0800 = some .ethIpv4 ∧
    decodeTableWord 8 0x20 = some .ip4Mf ∧ decodeTableWord 8 6 = some .ip4Tcp ∧
    decodeTableWord 8 0x80 = some .frExt ∧ decodeTableWord 8 2 = some .frIssue ∧
    decodeTableWord 0 0 = some .txnAccept ∧ decodeTableWord 24 0 = none := by decide

/-- A placed word is what the next step from reset runs. -/
theorem test_placed_words_run :
    after (fun t => (t.seq, t.status.reason)) (step (State.reset.withFetchWord 16 0x0800)) =
      some (.ipv4, .none) ∧
    after (fun t => (t.seq, t.status.reason)) (step (State.reset.withFetchWord 8 0x20)) =
      some (.aborted, .fatal .ipv4Mf) ∧
    after (fun t => (t.seq, t.status.reason)) (step (State.reset.withFetchWord 8 0x2B)) =
      some (.aborted, .fatal .ipv6Routing) ∧
    after (fun t => t.seq) (step (State.reset.withFetchWord 8 6)) = some .tcp ∧
    after (fun t => t.fr.phase) (step (State.reset.withFetchWord 8 2)) = some .wait := by decide

/-! ## The transaction -/

/-- R71's example: `include_udp` 1, a frame of 60 bytes, from reset. -/
def accepting : State := { State.reset with includeUdp := true, req := some (ask 60) }

theorem test_accept :
    after (fun t => (t.cfgUdp, t.seq, t.out.kind, t.frameLen, t.req)) (exec .txnAccept accepting) =
      some (true, .eth, .none, 60, none) := by decide
theorem test_accept_then_converts :
    after (fun t => (t.point, nextOp t)) (step accepting) = some (.tsConv, some .tsConv) := by decide

/-- In DELIVER, after the delivery example of R75. -/
def delivering : State :=
  { State.reset with
    seq := .deliver, point := .ack, frameLen := 59, frame := tcpFrame, status := ⟨.packet, .none, false, false⟩
    out := ⟨0, .tcp, 0x0A000001, 0x0A000002, 54, 5, 5⟩ }

theorem test_deliver :
    after (fun t => (t.seq, t.status.outcome, t.out.length))
      (exec .txnDeliver (mid .tcp .deliver 59 tcpFrame d0)) = some (.deliver, .packet, 0) := by decide
theorem test_ack : after (fun t => t.seq) (exec (.txnAck false) delivering) = some .idle := by decide
theorem test_ack_stop :
    after (fun t => (t.seq, t.status.stopped)) (exec (.txnAck true) delivering) =
      some (.stopped, true) := by decide

theorem witness_ResetRestoresEveryValue :
    ({ delivering with rst := true } : State).rst = true ∧
      (ask 65535).frameLen.toNat ≤ delivering.params.frameMax := by decide
theorem witness_AcceptSamplesInputsAndClearsOutput :
    let s := { accepting with req := some (ask 65535) }
    s.req = some (ask 65535) ∧ s.seq = .idle ∧ s.status.aborted = false ∧ s.status.stopped = false ∧
      (ask 65535).frameLen.toNat ≤ s.params.frameMax := by decide

/-- The block after a FATAL, and after a stop. -/
def aborted : State := raiseFatal .ipv4Mf State.reset
def stopped : State := { delivering with seq := .stopped, status := ⟨.packet, .none, false, true⟩ }
/-- A block whose largest frame is 1518 bytes. -/
def small : State := { State.reset with params := { Params.default with frameMax := 1518 } }

theorem witness_UnacceptableRequestsAreRefused :
    aborted.status.aborted = true ∧
    (stopped.status.aborted = false ∧ stopped.status.stopped = true) ∧
    (delivering.status.aborted = false ∧ delivering.status.stopped = false ∧ delivering.seq ≠ .idle) ∧
    (small.status.aborted = false ∧ small.status.stopped = false ∧ small.seq = .idle ∧
      small.params.frameMax < (ask 1519).frameLen.toNat ∧
      ¬ small.params.frameMax < (ask 1518).frameLen.toNat) := by decide
theorem test_refused_requests :
    acceptRefusal aborted (ask 14) = some .requestWhileAborted ∧
    acceptRefusal stopped (ask 14) = some .requestWhileStopped ∧
    acceptRefusal delivering (ask 14) = some .requestWhileBusy ∧
    acceptRefusal small (ask 1519) = some .frameTooLong ∧ acceptRefusal small (ask 1518) = none := by decide
theorem witness_AckReturnsToIdleOrStops :
    delivering.seq = .deliver ∧ delivering.rst = false ∧ delivering.ack = none ∧ delivering.req = none ∧
      accepting.seq ≠ .deliver := by decide
/-- The same, with a stop acknowledged and not yet taken. -/
def acknowledged : State := { delivering with ack := some true }

/-- A framer run that waits for its transaction's outcome. -/
def running : State := withFramer (framer .wait 2 [0, 0, 7])

/-- The view is bytes 54 to 58 of a 59-byte frame: its first and last byte, the offsets on either side, and a
frame that ends one byte inside it. -/
theorem witness_ProducerAndSinkTakeTurnsOnTheFrame :
    (State.reset.frame.wf = true ∧ State.reset.seq = .idle ∧ State.reset.req = none) ∧
    aborted.seq = .aborted ∧ stopped.seq = .stopped ∧ tcpFrame.wf = true ∧ accepting.req ≠ none ∧
    (acceptRefusal State.reset (ask 65535) = none ∧ State.reset.rst = false ∧
      State.reset.busy = false ∧ State.reset.fr.phase = .off) ∧
    (acceptRefusal running (ask 14) = none ∧ running.rst = false ∧ running.busy = false ∧
      running.req = none ∧ running.fr.phase ≠ .off ∧ running.fr.phase ≠ .done) ∧
    ({ running with fr := { running.fr with phase := .done } } : State).fr.phase = .done ∧
    (accepting.rst = false ∧ accepting.fr.phase = .off) ∧ delivering.busy = true ∧
    (aborted.rst = false ∧ aborted.fr.phase = .off ∧ aborted.busy = false ∧ aborted.req = none ∧
      aborted.status.aborted = true) ∧
    (stopped.fr.phase = .off ∧ stopped.busy = false ∧ stopped.req = none ∧
      stopped.status.aborted = false ∧ stopped.status.stopped = true) ∧
    (acceptRefusal { State.reset with rst := true } (ask 14) = none ∧
      ({ State.reset with rst := true } : State).rst = true) ∧
    (delivering.seq ≠ .idle ∧ delivering.seq ≠ .aborted ∧ delivering.seq ≠ .stopped) ∧
    (delivering.seq = .deliver ∧ delivering.ack = none ∧ 0 < delivering.out.payloadLen.toNat ∧
      4 < delivering.out.payloadLen.toNat ∧ delivering.out.payloadLen.toNat ≤ 5 ∧
      delivering.out.payloadOff.toNat + 4 < delivering.frameLen.toNat) ∧
    53 < delivering.out.payloadOff.toNat ∧
    delivering.out.payloadOff.toNat + delivering.out.payloadLen.toNat ≤ 59 ∧
    ({ delivering with frameLen := 58 } : State).frameLen.toNat ≤
      delivering.out.payloadOff.toNat + 4 ∧
    acknowledged.seq = .deliver ∧ acknowledged.ack ≠ none := by decide
theorem test_sink_reads_only_its_view :
    sinkReadByte 54 delivering = (0xA0, delivering) ∧ sinkReadByte 58 delivering = (0xA4, delivering) ∧
    ((sinkReadByte 53 delivering).2.free, (sinkReadByte 59 delivering).2.free) = (1, 1) ∧
    (sinkReadByte 54 acknowledged).2.free = 1 ∧ sinkRecord acknowledged = none := by
  refine ⟨rfl, rfl, rfl, rfl, rfl⟩
theorem test_agents_refused :
    sinkStep (.acknowledge false) acknowledged = .refused .ackAlreadyGiven ∧
    producerStep (.writeFrame 0 1) accepting = .refused .bufferOwned ∧
    producerStep (.present (ask 14)) { State.reset with rst := true } = .refused .inReset ∧
    producerStep (.startRun []) { State.reset with rst := true } = .refused .inReset ∧
    producerStep (.present (ask 14)) running = .refused .secondProducer ∧
    producerStep (.writeFrame 0 1) running = .refused .secondProducer ∧
    producerStep (.startRun []) accepting = .refused .secondProducer ∧
    producerStep (.startRun []) aborted = .refused .requestWhileAborted ∧
    producerStep (.startRun []) stopped = .refused .requestWhileStopped := by
  refine ⟨rfl, rfl, rfl, rfl, rfl, rfl, rfl, rfl, rfl⟩
/-- After a FATAL the response is the outcome and the reason; the latch shows as a refusal (R29). -/
theorem test_response :
    response aborted = ⟨.fatal, .fatal .ipv4Mf⟩ ∧
    producerStep (.present (ask 14)) aborted = .refused .requestWhileAborted := by
  refine ⟨rfl, rfl⟩
/-- A delivery before and, in a state no run reaches, after an acknowledgement is held. -/
theorem witness_DeliverShowsTheRecordToTheSink :
    (mid .tcp .deliver 59 tcpFrame d0).ack = none ∧ acknowledged.ack ≠ none := by decide
theorem witness_SkipAndFatalWriteTheStatus :
    State.reset.status.aborted = false ∧ State.reset.status.stopped = false ∧
      (ask 65535).frameLen.toNat ≤ State.reset.params.frameMax := by decide
/-- The last four bytes of a 59-byte frame, and one byte past its end. -/
theorem witness_MemReadIsTheBigEndianSum :
    55 + 4 ≤ delivering.frameLen.toNat ∧ 57 + 2 ≤ delivering.frameLen.toNat ∧
      58 + 1 ≤ delivering.frameLen.toNat ∧ delivering.frameLen.toNat < 56 + 4 := by decide
/-- R34's example: 192.168.1.1. -/
theorem test_beValue :
    addrOf (Memory.beValue [(26, 0xC0), (27, 0xA8), (28, 1), (29, 1)] 26 4) = 0x00000000C0A80101 := by
  decide

/-! ## The timestamp converter -/

/-- R107, and T9 to T11: ties where the two settings differ and where they agree. -/
theorem test_timestamp_examples :
    timestampNs .halfUp 1 0 = 1000000000 ∧ timestampNs .halfUp 0 0x80000000 = 500000000 ∧
    timestampNs .halfUp 0 0x00400000 = 976563 ∧ timestampNs .halfEven 0 0x00400000 = 976562 ∧
    timestampNs .halfUp 0 0x00C00000 = 2929688 ∧ timestampNs .halfEven 0 0x00C00000 = 2929688 := by decide
/-- T12, T13, T16, T18. -/
theorem test_timestamp_bounds :
    timestampNs .halfUp 0 0xFFFFFFFD = 999999999 ∧ timestampNs .halfUp 0 0xFFFFFFFE = 1000000000 ∧
    timestampNs .halfUp 1234 0x80000001 = 1234500000000 ∧
    timestampNs .halfEven 0xFFFFFFFF 0xFFFFFFFF = 4294967296000000000 := by decide
/-- R103: 2^53 + 1 is a tie and goes to the even neighbour, 2^53 + 3 to the other one. -/
theorem test_binary64Round :
    binary64Round 9007199254740993 = 9007199254740992 ∧
    binary64Round 9007199254740995 = 9007199254740996 ∧
    fracNsDouble .halfEven 0x00400000 = 976562 ∧ fracNsDouble .halfUp 0xFFFFFFFE = 1000000000 := by
  decide
theorem test_tsConv :
    after (fun t => (t.out.timestamp, t.out.kind)) (exec .tsConv { State.reset with tsWhole := 1, tsFrac := 0x80 }) =
      some (1000000030, .none) := by decide
/-- The three cases of the remainder, the tie under both settings. -/
theorem witness_TsConvRoundsToNearest :
    0x10C6 * 1000000000 % 4294967296 > 2147483648 ∧ 0x10C7 * 1000000000 % 4294967296 < 2147483648 ∧
    0x00400000 * 1000000000 % 4294967296 = 2147483648 ∧ Params.default.tsTie = .halfUp ∧
    ({ Params.default with tsTie := .halfEven } : Params).tsTie = .halfEven := by decide
/-- The last fraction that does not carry, and the two that do. -/
theorem witness_TimestampRangeIsExact :
    fracNs .halfUp (0xFFFFFFFD : Word).toNat = 999999999 ∧
    fracNs .halfUp (0xFFFFFFFE : Word).toNat = 1000000000 ∧
    fracNs .halfEven (0xFFFFFFFF : Word).toNat = 1000000000 := by decide
theorem witness_TimestampTiesAreTheListedFractions :
    (0x00400000 : Word).toNat % 8388608 = 4194304 ∧ (0xFFC00000 : Word).toNat % 8388608 = 4194304 ∧
      (0x00400001 : Word).toNat % 8388608 ≠ 4194304 := by decide

/-! ## The Ethernet + VLAN stage -/

/-- R108's example at the shortest frame, and the skip one byte below. -/
theorem test_ethHdr :
    after (fun t => (t.dp.ethertype, t.dp.cur, t.dp.vlan)) (exec .ethHdr (mid .eth .ethHdr 14 [(12, 8)] d0)) =
      some (some 0x0800, some 14, some false) := by decide
theorem test_ethHdr_short :
    after (fun t => (t.status.reason, t.seq, t.dp.cur)) (exec .ethHdr (mid .eth .ethHdr 13 [(12, 8)] d0)) =
      some (.skip .frameShort, .idle, none) := by decide
/-- R109's example. -/
theorem test_ethVlan :
    after (fun t => (t.dp.ethertype, t.dp.cur, t.dp.vlan))
      (exec .ethVlan (mid .eth .ethType 18 [(12, 0x81), (15, 0x64), (16, 0x08)] d0)) =
      some (some 0x0800, some 18, some true) := by decide
/-- V8: the tag cut short. -/
theorem test_ethVlan_short :
    after (fun t => t.status.reason)
      (exec .ethVlan (mid .eth .ethType 17 [(12, 0x81), (15, 0x64), (16, 0x08)] d0)) =
      some (.skip .frameShort) := by decide
theorem test_ethIpv4 : after (fun t => t.seq) (exec .ethIpv4 (mid .eth .ethType 14 [] d0)) = some .ipv4 := by
  decide
theorem test_ethIpv4Inner :
    after (fun t => t.seq) (exec .ethIpv4Inner (mid .eth .ethInner 18 [] d0)) = some .ipv4 := by decide
theorem test_ethIpv6 : after (fun t => t.seq) (exec .ethIpv6 (mid .eth .ethType 14 [] d0)) = some .ipv6 := by
  decide
theorem test_ethIpv6Inner :
    after (fun t => t.seq) (exec .ethIpv6Inner (mid .eth .ethInner 18 [] d0)) = some .ipv6 := by decide
/-- R113 (ARP) and R114 (a second tag), through the step. -/
theorem test_ethOther :
    after (fun t => (t.status.outcome, t.status.reason, t.seq))
      (step (mid .eth .ethType 14 [] { d0 with ethertype := some 0x0806 })) =
      some (.skip, .skip .ethertype, .idle) := by decide
theorem test_ethQinq :
    after (fun t => (t.status.outcome, t.status.reason, t.seq))
      (step (mid .eth .ethInner 22 [] { d0 with ethertype := some 0x8100 })) =
      some (.skip, .skip .ethertype, .idle) := by decide
theorem test_ethOtherInner :
    after (fun t => (t.status.reason, t.seq))
      (step (mid .eth .ethInner 22 [] { d0 with ethertype := some 0x88A8 })) =
      some (.skip .ethertype, .idle) := by decide

theorem witness_EthHdrReadsTheEthertype :
    (mid .eth .ethHdr 13 [] d0).frameLen.toNat < 14 ∧ 14 ≤ (mid .eth .ethHdr 14 [] d0).frameLen.toNat := by
  decide
theorem witness_EthVlanUnwrapsOneTag :
    (mid .eth .ethType 17 [] d0).frameLen.toNat < 18 ∧ 18 ≤ (mid .eth .ethType 18 [] d0).frameLen.toNat := by
  decide

/-! ## The IPv4 stage -/

/-- An IPv4 header at 14, seen from frame length `n`. -/
def ipv4At (p : Point) (n : Half) (F : Memory) : State :=
  mid .ipv4 p n F { d0 with cur := some 14, ihlBytes := some 20, proto := some 6 }

/-- R117's example at the shortest length (34), and V20's 33. -/
theorem test_ip4Hdr :
    after (fun t => (t.dp.ihlBytes, t.dp.proto, nextOp t)) (exec .ip4Hdr (ipv4At .ip4Hdr 34 tcpFrame)) =
      some (some 20, some 6, some .ip4Mf) := by decide
theorem test_ip4Hdr_short :
    after (fun t => (t.status.reason, t.seq)) (exec .ip4Hdr (ipv4At .ip4Hdr 33 tcpFrame)) =
      some (.skip .frameShort, .idle) := by decide
/-- V22: a fragmented ICMP datagram is skipped, not fatal. -/
theorem test_ip4Other :
    after (fun t => (t.status.outcome, t.status.reason))
      (step (mid .ipv4 .ip4Proto 42 [(20, 0x20)] { d0 with cur := some 14, proto := some 1 })) =
      some (.skip, .skip .ipv4Proto) := by decide
theorem test_ip4Mf :
    after (fun t => (t.status.outcome, t.status.reason, t.status.aborted, t.seq))
      (exec .ip4Mf (ipv4At .ip4Flags 59 [(20, 0x20)])) = some (.fatal, .fatal .ipv4Mf, true, .aborted) := by
  decide
/-- V40: the don't-fragment bit is ignored. -/
theorem test_ip4Mf_clear :
    after (fun t => (t.dp.mf, nextOp t)) (exec .ip4Mf (ipv4At .ip4Flags 59 [(20, 0x40)])) =
      some (some false, some .ip4Ihl) := by decide
/-- V25: IHL 4 under the strict parameter, and without it. -/
theorem test_ip4Ihl :
    after (fun t => t.status.reason) (exec .ip4Ihl (mid .ipv4 .ip4Ihl 59 [] { d0 with ihlBytes := some 16 })) =
      some (.skip .badHdrLen) := by decide
theorem test_ip4Ihl_lax :
    after (fun t => (t.status.reason, nextOp t))
      (exec .ip4Ihl { mid .ipv4 .ip4Ihl 59 [] { d0 with ihlBytes := some 16 } with params := lax }) =
      some (.none, some .ip4Addr) := by decide
theorem test_ip4Addr :
    after (fun t => (t.out.srcAddr, t.out.dstAddr)) (exec .ip4Addr (ipv4At .ip4Addr 34 tcpFrame)) =
      some (0x0A000001, 0x0A000002) := by decide
theorem test_ip4SegLen :
    after (fun t => (t.dp.totalLen, t.dp.segLen)) (exec .ip4SegLen (ipv4At .ip4SegLen 59 tcpFrame)) =
      some (some 45, some 25) := by decide
/-- V28: a total length of 10. -/
theorem test_ip4SegLen_negative :
    after (fun t => (t.status.reason, t.dp.segLen)) (exec .ip4SegLen (ipv4At .ip4SegLen 54 [(17, 10)])) =
      some (.skip .negativeLength, some (-10)) := by decide
/-- R123's bound: 18 + 60. -/
theorem test_ip4TOff :
    after (fun t => t.dp.tOff)
      (exec .ip4TOff (mid .ipv4 .ip4TOff 99 [] { d0 with cur := some 18, ihlBytes := some 60 })) =
      some (some 78) := by decide
theorem test_ip4Tcp : after (fun t => t.seq) (step (ipv4At .ip4Proto 59 [])) = some .tcp := by decide
theorem test_ip4Udp :
    after (fun t => t.seq)
      (step { mid .ipv4 .ip4Proto 46 [] { d0 with proto := some 17 } with cfgUdp := true }) = some .udp := by
  decide
/-- V32, and V34's parameter. -/
theorem test_ip4UdpOff :
    after (fun t => (t.seq, t.status.reason)) (step (mid .ipv4 .ip4Proto 46 [] { d0 with proto := some 17 })) =
      some (.idle, .skip .udpDisabled) := by decide
theorem test_ip4UdpOff_asTcp :
    after (fun t => (t.seq, t.status.reason))
      (exec .ip4UdpOff { State.reset with params := { Params.default with udpOffAsTcp := true } }) =
      some (.tcp, .none) := by decide

theorem witness_Ip4HdrReadsLengthAndProtocol :
    (ipv4At .ip4Hdr 34 tcpFrame).dp.cur = some 14 ∧ (33 : Half).toNat < (14 : Half).toNat + 20 ∧
    (14 : Half).toNat + 20 ≤ (34 : Half).toNat ∧
    (tcpFrame.read 23 = Params.default.protoTcp) ∧ (udpFrame.read 23 = Params.default.protoUdp) ∧
    (Memory.read [(23, 1)] 23 ≠ Params.default.protoTcp ∧
      Memory.read [(23, 1)] 23 ≠ Params.default.protoUdp) := by decide
theorem witness_Ip4MfAbortsOnAFragment :
    (ipv4At .ip4Flags 21 [(20, 0x20)]).dp.cur = some 14 ∧ (14 : Half).toNat + 7 ≤ (21 : Half).toNat ∧
    (Memory.read [(20, 0x20)] (14 + 6)).getLsbD 5 = true ∧
    (Memory.read [(20, 0xDF)] (14 + 6)).getLsbD 5 = false := by decide
theorem witness_Ip4IhlChecksOnlyWhenStrict :
    Params.default.strictHdrLen = true ∧ (16 : BitVec 7).toNat < 20 ∧ lax.strictHdrLen = false ∧
      20 ≤ (20 : BitVec 7).toNat ∧ (ipv4At .ip4Ihl 59 []).dp.ihlBytes = some 20 := by decide
theorem witness_Ip4AddrWritesBothAddresses :
    (ipv4At .ip4Addr 34 tcpFrame).dp.cur = some 14 ∧ (14 : Half).toNat + 20 ≤ (34 : Half).toNat := by decide
theorem witness_Ip4SegLenSubtractsTheHeader :
    (ipv4At .ip4SegLen 18 [(17, 20)]).dp.cur = some 14 ∧
    (ipv4At .ip4SegLen 18 [(17, 20)]).dp.ihlBytes = some 20 ∧ (14 : Half).toNat + 4 ≤ (18 : Half).toNat ∧
    after (fun t => t.status.reason) (exec .ip4SegLen (ipv4At .ip4SegLen 18 [(17, 20)])) = some .none ∧
    after (fun t => t.status.reason) (exec .ip4SegLen (ipv4At .ip4SegLen 18 [(17, 19)])) =
      some (.skip .negativeLength) := by decide
theorem witness_Ip4TOffSkipsTheHeader :
    (18 : Half).toNat + (60 : BitVec 7).toNat < 65536 ∧
    (ipv4At .ip4TOff 59 []).dp.proto = some Params.default.protoTcp ∧
    Params.default.protoUdp ≠ Params.default.protoTcp := by decide
theorem witness_Ip4UdpOffSkipsOrParsesAsTcp :
    Params.default.udpOffAsTcp = false ∧
    ({ Params.default with udpOffAsTcp := true } : Params).udpOffAsTcp = true := by decide

/-! ## The IPv6 stage -/

/-- An IPv6 header at 14 with next header `nh`, seen from frame length `n`. -/
def ipv6At (p : Point) (n : Half) (nh : Byte) : State :=
  mid .ipv6 p n (Memory.write [(12, 0x86), (13, 0xDD), (14, 0x60)] 20 nh)
    { d0 with cur := some 14, nh := some nh }

theorem test_ip6Hdr :
    after (fun t => (t.dp.nh, nextOp t)) (exec .ip6Hdr (ipv6At .ip6Hdr 54 59)) =
      some (some 59, some (.ip6Other 59)) := by decide
theorem test_ip6Hdr_short :
    after (fun t => (t.status.reason, t.seq)) (exec .ip6Hdr (ipv6At .ip6Hdr 53 59)) =
      some (.skip .frameShort, .idle) := by decide
/-- The examples of R129 to R133, through the step. -/
theorem test_ip6Tcp :
    after (fun t => (t.status.reason, t.seq)) (step (ipv6At .ip6Nh 74 6)) =
      some (.fatal .ipv6Tcp, .aborted) := by decide
theorem test_ip6Hopopt :
    after (fun t => (t.status.reason, t.seq)) (step (ipv6At .ip6Nh 62 0)) =
      some (.fatal .ipv6Hopopt, .aborted) := by decide
theorem test_ip6Routing :
    after (fun t => (t.status.reason, t.seq)) (step (ipv6At .ip6Nh 54 43)) =
      some (.fatal .ipv6Routing, .aborted) := by decide
theorem test_ip6Fragment :
    after (fun t => (t.status.reason, t.seq)) (step (ipv6At .ip6Nh 62 44)) =
      some (.fatal .ipv6Fragment, .aborted) := by decide
theorem test_ip6Other :
    after (fun t => (t.status.reason, t.seq)) (step { ipv6At .ip6Nh 66 17 with cfgUdp := true }) =
      some (.skip .ipv6Nh, .idle) := by decide
theorem witness_Ip6HdrReadsTheNextHeader :
    (ipv6At .ip6Hdr 54 59).dp.cur = some 14 ∧ (53 : Half).toNat < (14 : Half).toNat + 40 ∧
      (14 : Half).toNat + 40 ≤ (54 : Half).toNat := by decide

/-! ## The TCP and UDP stages -/

/-- A TCP stage at `p` on a frame of `n` bytes, with the registers of R136's example. -/
def tcpAt (p : Point) (n : Half) : State :=
  mid .tcp p n tcpFrame
    { d0 with tOff := some 34, segLen := some 25, thl := some 20, plen := some 5, poff := some 54 }

/-- A UDP stage at `p` on a frame of `n` bytes, with the registers of R139's example. -/
def udpAt (p : Point) (n : Half) : State :=
  mid .udp p n udpFrame
    { d0 with tOff := some 34, segLen := some 12, udpLen := some 12, plen := some 4, poff := some 42 }

theorem test_tcpHdr :
    after (fun t => (t.status.reason, nextOp t)) (exec .tcpHdr (tcpAt .tcpHdr 54)) =
      some (.none, some .tcpDoff) := by decide
theorem test_tcpHdr_short :
    after (fun t => t.status.reason) (exec .tcpHdr (tcpAt .tcpHdr 53)) = some (.skip .frameShort) := by decide
theorem test_tcpDoff :
    after (fun t => (t.dp.thl, nextOp t)) (exec .tcpDoff (tcpAt .tcpDoff 59)) =
      some (some 20, some .tcpPayload) := by decide
/-- A data offset of 4 at the default. -/
theorem test_tcpDoff_strict :
    after (fun t => (t.status.reason, t.dp.thl))
      (exec .tcpDoff (mid .tcp .tcpDoff 59 [(46, 0x4F)] { d0 with tOff := some 34 })) =
      some (.skip .badHdrLen, some 16) := by decide
theorem test_tcpPayload :
    after (fun t => (t.dp.plen, t.dp.poff)) (exec .tcpPayload (tcpAt .tcpPayload 59)) =
      some (some 5, some 54) := by decide
/-- V29: `seg_len` 0 gives a negative payload length. -/
theorem test_tcpPayload_negative :
    after (fun t => t.dp.plen)
      (exec .tcpPayload (mid .tcp .tcpPayload 54 [] { d0 with tOff := some 34, segLen := some 0, thl := some 20 })) =
      some (some (-20)) := by decide
theorem test_udpHdr :
    after (fun t => t.dp.udpLen) (exec .udpHdr (udpAt .udpHdr 42)) = some (some 12) := by decide
theorem test_udpHdr_short :
    after (fun t => t.status.reason) (exec .udpHdr (udpAt .udpHdr 41)) = some (.skip .frameShort) := by decide
theorem test_udpPayload :
    after (fun t => (t.dp.plen, t.dp.poff)) (exec .udpPayload (udpAt .udpPayload 46)) =
      some (some 4, some 42) := by decide
/-- A UDP length of 7. -/
theorem test_tpNegLen :
    after (fun t => (t.status.reason, t.out.payloadLen))
      (exec .tpNegLen (mid .udp .tpNegLen 46 [] { d0 with plen := some (-1) })) =
      some (.skip .negativeLength, 0) := by decide
theorem test_tpNegLen_zero :
    after (fun t => (t.status.reason, nextOp t))
      (exec .tpNegLen (mid .udp .tpNegLen 46 [] { d0 with plen := some 0 })) =
      some (.none, some .tpBounds) := by decide
/-- A view that ends exactly at `frame_len`, and one byte past it. -/
theorem test_tpBounds :
    after (fun t => (t.status.reason, nextOp t)) (exec .tpBounds (tcpAt .tpBounds 59)) =
      some (.none, some (.tpWrite .tcp)) := by decide
theorem test_tpBounds_over :
    after (fun t => t.status.reason) (exec .tpBounds (tcpAt .tpBounds 58)) =
      some (.skip .payloadBounds) := by decide
theorem test_tpWrite_tcp :
    after (fun t => (t.out, t.seq)) (step (tcpAt .tpWrite 59)) =
      some (⟨0, .tcp, 0, 0, 54, 5, 5⟩, .tcp) := by decide
theorem test_tpWrite_udp :
    after (fun t => (t.out, t.seq)) (step (udpAt .tpWrite 46)) =
      some (⟨0, .udp, 0, 0, 42, 4, 4⟩, .udp) := by decide

theorem witness_TransportEntriesCheckTheHeader :
    (tcpAt .tcpHdr 54).dp.tOff = some 34 ∧ (53 : Half).toNat < (34 : Half).toNat + 20 ∧
    (34 : Half).toNat + 20 ≤ (54 : Half).toNat ∧ (41 : Half).toNat < (34 : Half).toNat + 8 ∧
    (34 : Half).toNat + 8 ≤ (42 : Half).toNat := by decide
theorem witness_TcpDoffReadsTheDataOffset :
    (tcpAt .tcpDoff 47).dp.tOff = some 34 ∧ (34 : Half).toNat + 13 ≤ (47 : Half).toNat ∧
    Params.default.strictHdrLen = true ∧ (tcpFrame.read (34 + 12)).toNat / 16 * 4 = 20 ∧
    (Memory.read [(46, 0x4F)] (34 + 12)).toNat / 16 * 4 = 16 ∧ lax.strictHdrLen = false := by decide
theorem witness_PayloadOffsetAndLength :
    (tcpAt .tcpPayload 59).dp.tOff = some 34 ∧ (tcpAt .tcpPayload 59).dp.segLen = some 25 ∧
    (tcpAt .tcpPayload 59).dp.thl = some 20 ∧ (78 : Half).toNat + (60 : BitVec 7).toNat < 65536 ∧
    14 ≤ (14 : Half).toNat ∧ (78 : Half).toNat ≤ 78 ∧ (60 : BitVec 7).toNat ≤ 60 ∧
    (udpAt .udpPayload 46).dp.udpLen = some 12 ∧ (78 : Half).toNat + 8 < 65536 := by decide
theorem witness_PayloadChecksSkip :
    (tcpAt .tpBounds 59).dp.plen = some 5 ∧ ((-1 : Int) < 0) ∧ ((0 : Int) ≤ 0) ∧
    (tcpAt .tpBounds 59).dp.poff = some 54 ∧ Params.default.payloadBoundsCheck = true ∧
    ((58 : Half).toNat : Int) < (54 : Half).toNat + 5 ∧
    ((54 : Half).toNat : Int) + 5 ≤ (59 : Half).toNat ∧
    ({ Params.default with payloadBoundsCheck := false } : Params).payloadBoundsCheck = false ∧
    (tcpAt .tpBounds 59).seq = .tcp ∧ (udpAt .tpBounds 46).seq = .udp := by decide
theorem witness_TransportWriteFillsTheRecord :
    let s := mid .tcp .tpWrite 59 [] { d0 with plen := some 65535, poff := some 0 }
    s.dp.plen = some 65535 ∧ s.dp.poff = some 0 ∧ (0 : Int) ≤ 65535 ∧ (65535 : Int) ≤ 65535 := by decide

/-! ## The framer -/

/-- R85's example header, and a stream that holds it. -/
def header : List Byte := [0, 0, 0, 0x80, 0, 0, 0, 1, 2, 0, 0, 82, 0, 0, 0, 66]
def hdrAt (bs : List Byte) : State := withFramer { Framer.off with stream := bs, phase := .hdr }

theorem test_frHdr :
    after (fun t => (t.fr.frac, t.fr.whole, t.fr.ext, t.fr.recType, t.fr.tlen, t.fr.wlen))
      (exec .frHdr (hdrAt header)) = some (0x80, 1, false, 2, 82, 66) := by decide
/-- F9 (a cut header) and F10 (an empty stream). -/
theorem test_frHdr_ends :
    after (fun t => t.fr.run) (exec .frHdr (hdrAt [0, 0, 0, 0, 0, 0, 0, 0, 2, 0])) = some (.truncated 0) ∧
    after (fun t => t.fr.run) (exec .frHdr (hdrAt [])) = some .endOfStream := by decide

/-- A framer that has read a header with total length `n`, with `bs` left in the stream. -/
def readAt (n : Half) (bs : List Byte) : State :=
  withFramer { Framer.off with stream := bs, phase := .read, tlen := n }

theorem test_frRead :
    after (fun t => (t.fr.record, t.fr.pos, t.fr.count)) (exec .frRead (readAt 18 [7, 8, 9])) =
      some ([7, 8], 2, 1) := by decide
/-- F7 (total length 12) and a payload one byte short. -/
theorem test_frRead_truncated :
    after (fun t => t.fr.run) (exec .frRead (readAt 12 [])) = some (.truncated 0) ∧
    after (fun t => (t.fr.run, t.fr.count)) (exec .frRead (readAt 18 [7])) =
      some (.truncated 0, 0) := by decide
theorem test_frType :
    after (fun t => t.fr.phase) (exec .frType (withFramer (framer .type 0x82 []))) = some .ext := by decide
/-- F4: a record of type 5. -/
theorem test_frType_other :
    after (fun t => (t.fr.outcome, t.fr.phase)) (exec .frType (withFramer (framer .type 5 []))) =
      some (.skipped (.skip .skipRecordType), .hdr) := by decide

/-- Two extension blocks, their first bytes 0x81 and 0x05, and the pad bytes (R92's example). -/
def chain : List Byte := [0x81, 0, 0, 0, 0, 0, 0, 0, 0x05, 0, 0, 0, 0, 0, 0, 0, 0, 0]

theorem test_frExt :
    after (fun t => (t.fr.blocks, t.fr.phase)) (exec .frExt (withFramer (framer .ext 0x82 chain))) =
      some (2, .pad) := by decide
/-- F5: the record ends inside the chain. -/
theorem test_frExt_short :
    after (fun t => (t.fr.outcome, t.fr.blocks))
      (exec .frExt (withFramer (framer .ext 0x82 [0x85, 0x85, 0x85, 0x85, 0x85, 0x85, 0x85, 0x85, 0x85, 0x85, 0x85]))) =
      some (.skipped (.skip .skipExtShort), 1) := by decide
theorem test_frPad :
    after (fun t => (t.fr.base, t.fr.phase))
      (exec .frPad (withFramer { framer .pad 0x82 chain with blocks := 2 })) = some (18, .issue) := by decide
/-- F6: one block and a single pad byte. -/
theorem test_frPad_short :
    after (fun t => t.fr.outcome)
      (exec .frPad (withFramer { framer .pad 0x82 [5, 5, 5, 5, 5, 5, 5, 5, 5] with blocks := 1 })) =
      some (.skipped (.skip .skipExtShort)) := by decide

/-- A framer about to issue a 3-byte frame that starts at record byte 2. -/
def issuing : State := withFramer { framer .issue 2 [0, 0, 7, 8, 9] with base := 2, whole := 1, frac := 0x80 }
def waiting (st : Status) : State := { withFramer { framer .wait 2 [0, 0, 7] with base := 2 } with status := st }

theorem test_frIssue :
    after (fun t => (t.frame, t.req, t.fr.phase)) (exec .frIssue issuing) =
      some ([(0, 7), (1, 8), (2, 9)], some ⟨3, 1, 0x80⟩, .wait) := by decide
theorem test_frIssue_collects :
    after (fun t => (t.fr.run, t.fr.phase))
      (exec .frIssue { waiting ⟨.fatal, .fatal .ipv6Tcp, true, false⟩ with seq := .aborted }) =
      some (.unsupported (.fatal .ipv6Tcp), .done) := by decide

theorem witness_FrHdrReadsTheRecordHeader :
    (hdrAt []).fr.pos ≤ (hdrAt []).fr.stream.length ∧ (hdrAt []).fr.stream.length = (hdrAt []).fr.pos ∧
    (hdrAt [0]).fr.pos < (hdrAt [0]).fr.stream.length ∧
    (hdrAt (header.take 15)).fr.stream.length < (hdrAt (header.take 15)).fr.pos + 16 ∧
    (hdrAt header).fr.pos + 16 ≤ (hdrAt header).fr.stream.length ∧
    Params.default.erfTsOrder = .big ∧
    ({ Params.default with erfTsOrder := .little } : Params).erfTsOrder = .little := by decide
theorem witness_FrReadTakesThePayload :
    (readAt 18 [7, 8]).fr.pos ≤ (readAt 18 [7, 8]).fr.stream.length ∧
    (readAt 15 []).fr.tlen.toNat < 16 ∧
    (readAt 18 [7]).fr.stream.length < (readAt 18 [7]).fr.pos + ((readAt 18 [7]).fr.tlen.toNat - 16) ∧
    16 ≤ (readAt 16 []).fr.tlen.toNat ∧
    (readAt 18 [7, 8]).fr.pos + ((readAt 18 [7, 8]).fr.tlen.toNat - 16) ≤
      (readAt 18 [7, 8]).fr.stream.length := by decide
theorem witness_FrTypePassesOnlyEthernet :
    (0x85 : Byte).toNat % 128 ≠ 2 ∧ (0x82 : Byte).toNat % 128 = 2 ∧ (0x02 : Byte).toNat % 128 = 2 := by decide
theorem witness_FrExtWalksTheChain :
    ((withFramer (framer .ext 0x82 (chain.take 16))).fr.typeByte.getLsbD 7 = true ∧
      8 * (1 + 1) ≤ (chain.take 16).length ∧
      (∀ j < 1, ((chain.take 16).getD (8 * j) 0).getLsbD 7 = true) ∧
      ((chain.take 16).getD (8 * 1) 0).getLsbD 7 = false) ∧
    (∀ k < 1, 8 * (k + 1) ≤ (chain.take 15).length → ((chain.take 15).getD (8 * k) 0).getLsbD 7 = true) ∧
    ¬ 8 * (1 + 1) ≤ (chain.take 15).length ∧
    (withFramer (framer .ext 0x02 [])).fr.typeByte.getLsbD 7 = false := by decide
theorem witness_FrPadSkipsTwoBytes :
    let s := withFramer { framer .pad 0x82 chain with blocks := 2 }
    2 = (if s.fr.typeByte.getLsbD 7 then s.fr.blocks else 0) ∧ 8 * 2 + 2 ≤ s.fr.record.length ∧
      (chain.take 17).length < 8 * 2 + 2 ∧ s.fr.typeByte.toNat % 128 = 2 := by decide
theorem witness_FrIssuePresentsTheFrame :
    issuing.frame.wf = true ∧ issuing.fr.phase = .issue ∧ issuing.fr.base ≤ issuing.fr.record.length ∧
    issuing.fr.record.length ≤ 65519 ∧ issuing.busy = false ∧
    issuing.req = none ∧ ({ issuing with seq := .deliver } : State).busy = true ∧
    ({ issuing with req := some (ask 14) } : State).req ≠ none := by decide
theorem witness_FrIssueMapsTheOutcome :
    (∀ st, (waiting st).fr.phase = .wait ∧ (waiting st).busy = false ∧ (waiting st).req = none) ∧
    (waiting Status.zero).status.outcome = .none ∧
    (waiting ⟨.packet, .none, false, false⟩).status.stopped = false ∧
    (waiting ⟨.packet, .none, false, true⟩).status.stopped = true ∧
    (waiting ⟨.skip, .skip .ethertype, false, false⟩).status.outcome = .skip ∧
    (waiting ⟨.fatal, .fatal .ipv6Tcp, true, false⟩).status.outcome = .fatal ∧
    ({ waiting Status.zero with seq := .eth } : State).busy = true ∧
    ({ waiting Status.zero with req := some (ask 14) } : State).req ≠ none :=
  ⟨fun _ => ⟨rfl, rfl, rfl⟩, by decide⟩

/-! ## The machine as a whole -/

theorem witness_StepRunsTheDecodedOperation :
    (tcpAt .tpWrite 59).rst = false ∧ nextPoint (tcpAt .tpWrite 59) = some .tpWrite ∧
    fetch (tcpAt .tpWrite 59) .tpWrite = .ok ⟨.tpWrite, false, [1]⟩ ∧
    decode Params.default ⟨.tpWrite, false, [1]⟩ = .ok (.tpWrite .tcp) := by
  refine ⟨rfl, rfl, rfl, rfl⟩
theorem witness_EveryDispatchValueHasItsOperation :
    (((⟨.ethType, false, [0x08, 0x06]⟩ : Selector).point = .ethType) ∧
      (⟨.ethType, false, [0x08, 0x06]⟩ : Selector).bytes.length = 2) ∧
    (((⟨.ip6Nh, false, [59]⟩ : Selector).point = .ip6Nh) ∧
      (⟨.ip6Nh, false, [59]⟩ : Selector).bytes.length = 1) := by decide
theorem witness_DecodeInvertsEncode :
    Params.default.wf = true ∧ (Instr.ethOther 0xFFFF).wf Params.default = true ∧
      (Instr.ip4UdpOff).wf Params.default = true := by decide

/-- The state after the acceptance of a 59-byte request. -/
def parsingTcp : State := acceptState (ask 59) { State.reset with frame := tcpFrame }

theorem witness_StepKeepsGoodStates :
    parsingTcp.inv = true ∧ after (fun t => t.seq) (step parsingTcp) = some .eth := by decide
theorem witness_AgentsKeepGoodStates :
    delivering.inv = true ∧ after (fun t => t.ack) (sinkStep (.acknowledge true) delivering) = some (some true) ∧
    State.reset.inv = true ∧
    after (fun t => t.req) (producerStep (.present (ask 14)) State.reset) = some (some (ask 14)) ∧
    after (fun t => t.rst) (integratorStep true State.reset) = some true := by decide
theorem witness_GoodStatesNeverFault : parsingTcp.inv = true ∧ parsingTcp.parsing = true := by decide
theorem witness_StageStepsKeepTheInputs :
    parsingTcp.inv = true ∧ parsingTcp.rst = false ∧ parsingTcp.parsing = true ∧
      after (fun t => t.parsing) (step parsingTcp) = some true := by decide
theorem witness_OnlyFrIssueWritesTheFrame :
    after (fun t => t.fr.phase) (exec .frIssue issuing) = some .wait ∧ isFramerOp .frIssue = true ∧
    isFramerOp .ethHdr = false ∧ Instr.ethHdr ≠ Instr.frIssue ∧
    after (fun t => t.seq) (exec .ethHdr (mid .eth .ethHdr 14 [] d0)) = some .eth := by decide
theorem witness_StagesFollowTheDiagram :
    parsingTcp.inv = true ∧ parsingTcp.rst = false ∧ parsingTcp.parsing = true ∧
      after (fun t => t.seq) (step parsingTcp) = some .eth := by decide
theorem witness_LatchesHoldUntilReset :
    aborted.inv = true ∧ aborted.rst = false ∧ aborted.status.aborted = true ∧
    after (fun t => t.seq) (step aborted) = some .aborted ∧
    stopped.inv = true ∧ stopped.rst = false ∧ stopped.status.stopped = true ∧
    after (fun t => t.seq) (step stopped) = some .stopped := by decide
theorem witness_Ipv6NeverDelivers :
    (ipv6At .ip6Nh 54 59).inv = true ∧ (ipv6At .ip6Nh 54 59).rst = false ∧
      (ipv6At .ip6Nh 54 59).seq = .ipv6 ∧
      after (fun t => t.seq) (step (ipv6At .ip6Nh 54 59)) = some .idle := by decide
theorem witness_TcpStageRunsItsPseudocode :
    (tcpAt .tcpHdr 59).rst = false ∧ (tcpAt .tcpHdr 59).seq = .tcp ∧ (tcpAt .tcpHdr 59).point = .tcpHdr ∧
    (tcpAt .tcpHdr 59).dp.tOff = some 34 ∧ (34 : Half).toNat ≤ 78 ∧
    (tcpAt .tcpHdr 59).dp.segLen = some 25 := by decide
theorem witness_UdpStageRunsItsPseudocode :
    (udpAt .udpHdr 46).rst = false ∧ (udpAt .udpHdr 46).seq = .udp ∧ (udpAt .udpHdr 46).point = .udpHdr ∧
    (udpAt .udpHdr 46).dp.tOff = some 34 ∧ (34 : Half).toNat ≤ 78 := by decide
theorem witness_Ipv4StageRunsItsPseudocode :
    (ipv4At .ip4Hdr 59 tcpFrame).rst = false ∧ (ipv4At .ip4Hdr 59 tcpFrame).seq = .ipv4 ∧
    (ipv4At .ip4Hdr 59 tcpFrame).point = .ip4Hdr ∧ (ipv4At .ip4Hdr 59 tcpFrame).dp.cur = some 14 ∧
    (14 : Half).toNat ≤ 18 := by decide
theorem witness_TransactionComputesParse :
    let s := { accepting with frame := udpFrame, req := some (ask 46) }
    s.rst = false ∧ s.seq = .idle ∧ s.req = some (ask 46) ∧ s.status.aborted = false ∧
      s.status.stopped = false ∧ (ask 46).frameLen.toNat ≤ s.params.frameMax := by decide

/-- V11. -/
theorem test_parse_tcp_packet :
    (parse Params.default false tcpFrame (ask 59)).outcome = .packet ∧
    (parse Params.default false tcpFrame (ask 59)).out.kind = .tcp ∧
    (parse Params.default false tcpFrame (ask 59)).out.dstAddr = 0x0A000002 ∧
    (parse Params.default false tcpFrame (ask 59)).out.payloadOff = 54 ∧
    (parse Params.default false tcpFrame (ask 59)).out.payloadLen = 5 := by decide
/-- V33. -/
theorem test_parse_udp_packet :
    (parse Params.default true udpFrame (ask 46)).outcome = .packet ∧
    (parse Params.default true udpFrame (ask 46)).out.kind = .udp ∧
    (parse Params.default true udpFrame (ask 46)).out.payloadOff = 42 ∧
    (parse Params.default true udpFrame (ask 46)).out.payloadLen = 4 := by decide
/-- V32, V37 and V38. -/
theorem test_parse_skips :
    (parse Params.default false udpFrame (ask 46)).reason = .skip .udpDisabled ∧
    (parse Params.default false (tcpFrame.writeBytes 16 [0x05, 0xDC]) (ask 59)).reason =
      .skip .payloadBounds ∧
    (parse { Params.default with payloadBoundsCheck := false } false (tcpFrame.writeBytes 16 [0x05, 0xDC])
      (ask 59)).out.payloadLen = 1460 := by decide

/-- Two buffers that differ only past a 14-byte frame. -/
theorem witness_ParseReadsOnlyTheFrame :
    (∀ a < (ask 14).frameLen.toNat, Memory.read [] a = Memory.read [(14, 1)] a) ∧
      Memory.read [] 14 ≠ Memory.read [(14, 1)] 14 := by decide
/-- A 12-byte frame of zeros after the MAC addresses, and the same with a tag before it. -/
theorem witness_VlanTagShiftsThePayloadByFour :
    12 ≤ (ask 12).frameLen.toNat ∧ (ask 16).frameLen.toNat = (ask 12).frameLen.toNat + 4 ∧
    Memory.read [(12, 0x81)] 12 = Params.default.ethertypeVlan.extractLsb' 8 8 ∧
    Memory.read [(12, 0x81)] 13 = Params.default.ethertypeVlan.extractLsb' 0 8 ∧
    (∀ a, 12 ≤ a → Memory.read [(12, 0x81)] (a + 4) = Memory.read [] a) ∧
    Memory.beValue [] 12 2 ≠ Params.default.ethertypeVlan.toNat := by
  refine ⟨by decide, by decide, by decide, by decide, fun a ha => ?_, by decide⟩
  simp [Memory.read]
  omega
theorem witness_DeliveredPayloadLiesInTheFrame :
    (parse Params.default false tcpFrame (ask 59)).outcome = .packet ∧
      Params.default.payloadBoundsCheck = true := by decide

end Sys2Proof.Tests
end

