-- ==== Sys2Proof/Proofs/Scope.lean ====
section
/-! PROOFS. What a step is when reset is released and some point has its turn: the fetch, the decode and
`exec`, one equation for each (R2, R65). -/

namespace Sys2Proof.Machine

/-- The scheduling half of a step. `step_parsing` is its case in a stage. -/
theorem step_eq_stepAt {s : State} {p : Point} (hrst : s.rst = false) (hp : nextPoint s = some p) :
    step s = stepAt p s := by
  simp [step, hrst, hp]

/-- The decoding half of a step: past the fetch and the decoder only `exec` is left. -/
theorem stepAt_eq_exec {s : State} {p : Point} {sel : Selector} {i : Instr}
    (hf : fetch s p = .ok sel) (hd : decode s.params sel = .ok i) : stepAt p s = exec i s := by
  simp [stepAt, hf, hd]

/-- Settles O41: the scheduling half of a step, then its decoding half. -/
theorem stepRunsTheDecodedOperation : Obligations.StepRunsTheDecodedOperation := by
  intro s p sel i hrst hp hf hd
  calc step s = stepAt p s := step_eq_stepAt hrst hp
    _ = exec i s := stepAt_eq_exec hf hd

end Sys2Proof.Machine
end

