-- ==== Sys2Proof/Proofs/Ready.lean ====
section
/-! PROOFS. The readiness predicates of Safety.lean read as values: which register holds what, and which
check has passed, at the points where an operation needs it (R19 to R21, R37). -/

namespace Sys2Proof.Machine

/-- The network header stands at one of its two places, so at most at 18 (R19). -/
theorem curLegal_cases {d : Datapath} (h : curLegal d = true) :
    ∃ ip, d.cur = some ip ∧ ip.toNat ≤ 18 := by
  simp only [curLegal, Bool.or_eq_true, beq_iff_eq] at h
  obtain h | h := h
  · exact ⟨14, h, by decide⟩
  · exact ⟨18, h, by decide⟩

/-- IP4.HDR has run and passed its checks: its three registers hold legal values. -/
theorem ip4Ready_cases {s : State} (h : ip4Ready s = true) :
    ∃ ip ihl, s.dp.cur = some ip ∧ ip.toNat ≤ 18 ∧ ip.toNat + 20 ≤ s.frameLen.toNat ∧
      s.dp.ihlBytes = some ihl ∧ ihl.toNat ≤ 60 := by
  simp only [ip4Ready, ipInFrame, Bool.and_eq_true, Option.any_eq_true, decide_eq_true_eq] at h
  obtain ⟨⟨⟨hcur, ip, hip, hlen⟩, ihl, hihl, hle⟩, -⟩ := h
  obtain ⟨ip', hip', hle'⟩ := curLegal_cases hcur
  obtain rfl : ip = ip' := Option.some.inj (hip.symm.trans hip')
  exact ⟨ip, ihl, hip, hle', hlen, hihl, hle⟩

/-- What IP4.HDR leaves when the protocol passes the filter. -/
theorem ip4Ready_of {s : State} {ip : Half} {ihl : BitVec 7} {p : Byte} (hc : curLegal s.dp = true)
    (hip : s.dp.cur = some ip) (hlen : ip.toNat + 20 ≤ s.frameLen.toNat)
    (hihl : s.dp.ihlBytes = some ihl) (hle : ihl.toNat ≤ 60) (hp : s.dp.proto = some p)
    (ho : s.params.otherProto p = false) : ip4Ready s = true := by
  simp [ip4Ready, ipInFrame, hc, hip, hlen, hihl, hle, hp, ho]

/-- A protocol that passed R116's filter is held in `proto`. -/
theorem ip4Ready_proto {s : State} (h : ip4Ready s = true) :
    ∃ p, s.dp.proto = some p ∧ s.params.otherProto p = false := by
  simp only [ip4Ready, Bool.and_eq_true, Option.any_eq_true, Bool.not_eq_true'] at h
  exact h.2

theorem segLegal_iff {d : Datapath} :
    segLegal d = true ↔ ∃ v, d.segLen = some v ∧ 0 ≤ v ∧ v ≤ 65535 := by
  simp [segLegal, Option.any_eq_true]

theorem tOffLegal_iff {d : Datapath} :
    tOffLegal d = true ↔ ∃ t, d.tOff = some t ∧ t.toNat ≤ 78 := by
  simp [tOffLegal, Option.any_eq_true]

theorem tOffInFrame_iff {s : State} {t : Half} (h : s.dp.tOff = some t) (n : Nat) :
    tOffInFrame s n = true ↔ t.toNat + n ≤ s.frameLen.toNat := by
  simp [tOffInFrame, h]

theorem payloadLegal_iff {d : Datapath} :
    payloadLegal d = true ↔
      ∃ plen poff, d.plen = some plen ∧ -60 ≤ plen ∧ plen ≤ 65535 ∧
        d.poff = some poff ∧ poff.toNat ≤ 138 := by
  simp only [payloadLegal, Bool.and_eq_true, Option.any_eq_true, decide_eq_true_eq]
  constructor
  · rintro ⟨⟨plen, hplen, hlo, hhi⟩, poff, hpoff, hle⟩
    exact ⟨plen, poff, hplen, hlo, hhi, hpoff, hle⟩
  · rintro ⟨plen, poff, hplen, hlo, hhi, hpoff, hle⟩
    exact ⟨⟨plen, hplen, hlo, hhi⟩, poff, hpoff, hle⟩

/-- A protocol is TCP, UDP or one only IP4.OTHER takes (R63). -/
theorem otherProto_iff {P : Params} {p : Byte} :
    P.otherProto p = true ↔ p ≠ P.protoTcp ∧ p ≠ P.protoUdp := by
  simp [Params.otherProto]

/-- At the protocol dispatch a TCP or UDP segment has its offset and length (R63, R116). -/
theorem readyAt_ip4Proto_iff {s : State} :
    readyAt s .ip4Proto = true ↔ ∃ p, s.dp.proto = some p ∧
      (s.params.otherProto p = true ∨ (tOffLegal s.dp && segLegal s.dp) = true) := by
  simp only [readyAt, Option.any_eq_true, Bool.or_eq_true]

/-! The points of each stage (R73). -/

theorem pointStage_eth {p : Point} (h : pointStage p .eth = true) :
    p = .tsConv ∨ p = .ethHdr ∨ p = .ethType ∨ p = .ethInner := by
  cases p <;> simp [pointStage] at h ⊢

theorem pointStage_ipv4 {p : Point} (h : pointStage p .ipv4 = true) :
    p = .ip4Hdr ∨ p = .ip4Flags ∨ p = .ip4Ihl ∨ p = .ip4Addr ∨ p = .ip4SegLen ∨ p = .ip4TOff ∨
      p = .ip4Proto := by
  cases p <;> simp [pointStage] at h ⊢

theorem pointStage_ipv6 {p : Point} (h : pointStage p .ipv6 = true) :
    p = .ip6Hdr ∨ p = .ip6Nh := by
  cases p <;> simp [pointStage] at h ⊢

/-- What both transport stages share (R136, R139). -/
def transportTail (p : Point) : Prop :=
  p = .tpNegLen ∨ p = .tpBounds ∨ p = .tpWrite ∨ p = .deliver

theorem pointStage_tcp {p : Point} (h : pointStage p .tcp = true) :
    p = .tcpHdr ∨ p = .tcpDoff ∨ p = .tcpPayload ∨ transportTail p := by
  cases p <;> simp [pointStage, transportTail] at h ⊢

theorem pointStage_udp {p : Point} (h : pointStage p .udp = true) :
    p = .udpHdr ∨ p = .udpPayload ∨ transportTail p := by
  cases p <;> simp [pointStage, transportTail] at h ⊢

/-- No point belongs to IDLE, DELIVER or a latched state. -/
theorem pointStage_outside (p : Point) {q : Seq}
    (hq : q = .idle ∨ q = .deliver ∨ q = .aborted ∨ q = .stopped) : pointStage p q = false := by
  obtain rfl | rfl | rfl | rfl := hq <;> cases p <;> rfl

/-- A state whose point belongs to its stage is inside that stage. -/
theorem parsing_of_pointStage {s : State} {p : Point} (h : pointStage p s.seq = true) :
    s.parsing = true := by
  unfold State.parsing
  cases hq : s.seq <;> rw [hq] at h
  case idle | deliver | aborted | stopped => simp [pointStage_outside] at h

/-- In a stage, readiness is the readiness of the operation at `point`. -/
theorem stageReady_of_parsing {s : State} (h : s.parsing = true) :
    stageReady s = true ↔ pointStage s.point s.seq = true ∧ readyAt s s.point = true := by
  unfold State.parsing at h
  unfold stageReady
  cases hq : s.seq <;> simp [hq] at h ⊢

end Sys2Proof.Machine
end

