-- ==== Sys2Proof/Proofs/StageStep.lean ====
section
/-! PROOFS. What a step inside a stage can do, said once: it goes on in its stage, writes `out`, enters a
later stage, skips, aborts or delivers (R73, R74, R75, R148, R149). One rule for each shared operation
carries this through an operation's meaning; the stages' operations follow in the order of R73. -/

namespace Sys2Proof.Machine

/-- `t` follows `s` by one operation of the stage `s` is in, and the operation at the point where `t`
stands is ready. -/
inductive StageStep (s : State) : State → Prop where
  /-- Registers written, the next point in the same stage. -/
  | advances (d : Datapath) (p : Point) : pointStage p s.seq = true →
      readyAt (advance d p s) p = true → StageStep s (advance d p s)
  /-- Fields of `out` written, the next point in the same stage. -/
  | writes (o : OutRecord) (p : Point) : (outLegal s.out = true → outLegal o = true) →
      pointStage p s.seq = true → readyAt { s with out := o, point := p } p = true →
      StageStep s { s with out := o, point := p }
  /-- `goto` a later stage. -/
  | enters (q : Seq) (p : Point) : stageEdge s.seq q = true → pointStage p q = true →
      readyAt (goto q p s) p = true → StageStep s (goto q p s)
  /-- The transaction skips, with a reason of the block's own. -/
  | skips (r : SkipReason) (d : Datapath) : r.framers = false →
      StageStep s (raiseSkip r { s with dp := d })
  /-- The transaction aborts the run. -/
  | aborts (r : FatalReason) (d : Datapath) : s.seq = .ipv4 ∨ s.seq = .ipv6 →
      StageStep s (raiseFatal r { s with dp := d })
  /-- The record is delivered. -/
  | delivers : s.seq = .tcp ∨ s.seq = .udp →
      StageStep s { s with
        status := { s.status with outcome := .packet, reason := .none }
        seq := .deliver
        point := .ack }

/-- The result is a next state, reached by a stage step. -/
def StepsInStage (s : State) (r : Result) : Prop := ∃ t, r = .next t ∧ StageStep s t

/-! ## One rule for each shared operation -/

theorem StepsInStage.next {s t : State} (h : StageStep s t) : StepsInStage s (.next t) := ⟨t, rfl, h⟩

theorem StepsInStage.need {s : State} {o n : Nat} {k : Result}
    (h : o + n ≤ s.frameLen.toNat → StepsInStage s k) : StepsInStage s (need s o n k) := by
  by_cases hn : o + n ≤ s.frameLen.toNat
  · rw [need_enough hn]
    exact h hn
  · rw [need_short (by omega)]
    exact .next (.skips .frameShort s.dp rfl)

theorem StepsInStage.memRead {s : State} {o n : Nat} {k : Nat → Result}
    (hn : o + n ≤ s.frameLen.toNat) (h : StepsInStage s (k (s.frame.beValue o n))) :
    StepsInStage s (memRead s o n k) := by
  rw [memRead_inside hn]
  exact h

theorem StepsInStage.withReg {α : Type} {s : State} {r : Reg} {v : Option α} {x : α}
    {k : α → Result} (hv : v = some x) (h : StepsInStage s (k x)) :
    StepsInStage s (withReg r v k) := by
  rw [hv]
  exact h

/-- A check that skips where it fails. -/
theorem StepsInStage.skipIf {s t : State} {c : Prop} [Decidable c] (r : SkipReason) (d : Datapath)
    {p : Point} (hr : r.framers = false) (h : ¬ c → StageStep s t) :
    StepsInStage s (.next (if c then raiseSkip r (advance d p s) else t)) := by
  split
  · exact .next (.skips r d hr)
  · exact .next (h ‹_›)

/-! ## The Ethernet + VLAN stage -/

theorem tsConv_stepsInStage {s : State} (hq : s.seq = .eth) :
    StepsInStage s (stepAt .tsConv s) := by
  obtain ⟨v, hv⟩ := stepAt_tsConv_writes s
  rw [hv]
  exact .next (.writes { s.out with timestamp := v } .ethHdr id (by rw [hq]; rfl) rfl)

theorem ethHdr_stepsInStage {s : State} (hq : s.seq = .eth) :
    StepsInStage s (stepAt .ethHdr s) := by
  rw [stepAt_ethHdr]
  exact .need fun hlen => .memRead (by omega) (.next (.advances _ _ (by rw [hq]; rfl) rfl))

/-- The stage entries of IPv4 and IPv6 need only the place of the network header (R111, R112). -/
theorem enters_ipv4 {s : State} (hq : s.seq = .eth) (hc : curLegal s.dp = true) :
    StepsInStage s (.next (goto .ipv4 .ip4Hdr s)) :=
  .next (.enters _ _ (by rw [hq]; rfl) rfl hc)

theorem enters_ipv6 {s : State} (hq : s.seq = .eth) (hc : curLegal s.dp = true) :
    StepsInStage s (.next (goto .ipv6 .ip6Hdr s)) :=
  .next (.enters _ _ (by rw [hq]; rfl) rfl hc)

theorem ethType_stepsInStage {s : State} (hq : s.seq = .eth) (hr : readyAt s .ethType = true) :
    StepsInStage s (stepAt .ethType s) := by
  simp only [readyAt, Bool.and_eq_true, beq_iff_eq, Option.isSome_iff_exists] at hr
  obtain ⟨hcur, t, ht⟩ := hr
  have hc : curLegal s.dp = true := by simp [curLegal, hcur]
  rw [stepAt_ethType ht]
  unfold decodeEthertype
  split
  · exact .need fun hlen => .memRead (by omega) (.next (.advances _ _ (by rw [hq]; rfl) rfl))
  · split
    · exact enters_ipv4 hq hc
    · split
      · exact enters_ipv6 hq hc
      · exact .next (.skips .ethertype s.dp rfl)

theorem ethInner_stepsInStage {s : State} (hq : s.seq = .eth) (hr : readyAt s .ethInner = true) :
    StepsInStage s (stepAt .ethInner s) := by
  simp only [readyAt, Bool.and_eq_true, beq_iff_eq, Option.isSome_iff_exists] at hr
  obtain ⟨hcur, t, ht⟩ := hr
  have hc : curLegal s.dp = true := by simp [curLegal, hcur]
  rw [stepAt_ethInner ht]
  unfold decodeInnerEthertype
  split
  · exact enters_ipv4 hq hc
  · split
    · exact enters_ipv6 hq hc
    · split
      · exact .next (.skips .ethertype s.dp rfl)
      · exact .next (.skips .ethertype s.dp rfl)

theorem eth_stepsInStage {s : State} (hq : s.seq = .eth) (hp : pointStage s.point .eth = true)
    (hr : readyAt s s.point = true) : StepsInStage s (stepAt s.point s) := by
  obtain h | h | h | h := pointStage_eth hp <;> rw [h] at hr ⊢
  · exact tsConv_stepsInStage hq
  · exact ethHdr_stepsInStage hq
  · exact ethType_stepsInStage hq hr
  · exact ethInner_stepsInStage hq hr

/-! ## The IPv4 stage -/

theorem ip4Hdr_stepsInStage {s : State} (hq : s.seq = .ipv4) (hr : readyAt s .ip4Hdr = true) :
    StepsInStage s (stepAt .ip4Hdr s) := by
  have hc : curLegal s.dp = true := hr
  obtain ⟨ip, hip, -⟩ := curLegal_cases hc
  rw [stepAt_ip4Hdr]
  refine .withReg hip (.need fun hlen => .memRead (by omega) (.memRead (by omega) ?_))
  by_cases ho : s.params.otherProto (BitVec.ofNat 8 (s.frame.beValue (ip.toNat + 9) 1)) = true
  · rw [if_pos ho]
    exact .next (.advances _ _ (by rw [hq]; rfl) (readyAt_ip4Proto_iff.2 ⟨_, rfl, .inl ho⟩))
  · rw [if_neg ho]
    have hihl : (ihlBytesOf (s.frame.beValue ip.toNat 1)).toNat ≤ 60 := by
      rw [ihlBytesOf_toNat]
      omega
    exact .next (.advances _ _ (by rw [hq]; rfl)
      (ip4Ready_of hc hip hlen rfl hihl rfl (Bool.not_eq_true _ ▸ ho)))

theorem ip4Flags_stepsInStage {s : State} (hq : s.seq = .ipv4) (hr : ip4Ready s = true) :
    StepsInStage s (stepAt .ip4Flags s) := by
  obtain ⟨ip, ihl, hip, -, hlen, -, -⟩ := ip4Ready_cases hr
  rw [stepAt_ip4Flags]
  refine .withReg hip (.memRead (by omega) ?_)
  split
  · exact .next (.aborts .ipv4Mf _ (.inl hq))
  · exact .next (.advances _ _ (by rw [hq]; rfl) hr)

theorem ip4Ihl_stepsInStage {s : State} (hq : s.seq = .ipv4) (hr : ip4Ready s = true) :
    StepsInStage s (stepAt .ip4Ihl s) := by
  obtain ⟨ip, ihl, -, -, -, hihl, -⟩ := ip4Ready_cases hr
  rw [stepAt_ip4Ihl]
  exact .withReg hihl (.skipIf .badHdrLen s.dp (p := s.point) rfl fun _ =>
    .advances _ _ (by rw [hq]; rfl) hr)

theorem ip4Addr_stepsInStage {s : State} (hq : s.seq = .ipv4) (hr : ip4Ready s = true) :
    StepsInStage s (stepAt .ip4Addr s) := by
  obtain ⟨ip, ihl, hip, -, hlen, -, -⟩ := ip4Ready_cases hr
  rw [stepAt_ip4Addr]
  refine .withReg hip (.memRead (by omega) (.memRead (by omega)
    (.next (.writes _ _ (fun ho => ?_) (by rw [hq]; rfl) hr))))
  simp only [outLegal, Bool.and_eq_true] at ho ⊢
  exact ⟨⟨by simp [addrOf_upper], by simp [addrOf_upper]⟩, ho.2⟩

theorem ip4SegLen_stepsInStage {s : State} (hq : s.seq = .ipv4) (hr : ip4Ready s = true) :
    StepsInStage s (stepAt .ip4SegLen s) := by
  obtain ⟨ip, ihl, hip, -, hlen, hihl, -⟩ := ip4Ready_cases hr
  have hv := Memory.beValue_two_lt s.frame (ip.toNat + 2)
  rw [stepAt_ip4SegLen]
  refine .withReg hip (.withReg hihl (.memRead (by omega)
    (.skipIf .negativeLength _ rfl fun hneg => .advances _ _ (by rw [hq]; rfl) ?_)))
  exact Bool.and_eq_true_iff.2 ⟨hr, segLegal_iff.2 ⟨_, rfl, by omega, by omega⟩⟩

theorem ip4TOff_stepsInStage {s : State} (hq : s.seq = .ipv4) (hr : readyAt s .ip4TOff = true) :
    StepsInStage s (stepAt .ip4TOff s) := by
  obtain ⟨hrdy, hseg⟩ := Bool.and_eq_true_iff.1 hr
  obtain ⟨ip, ihl, hip, hip18, -, hihl, hihl60⟩ := ip4Ready_cases hrdy
  obtain ⟨p, hp, -⟩ := ip4Ready_proto hrdy
  rw [stepAt_ip4TOff]
  refine .withReg hip (.withReg hihl (.next (.advances _ _ (by rw [hq]; rfl) ?_)))
  have hoff : tOffLegal
      { s.dp with tOff := some (BitVec.ofNat 16 (ip.toNat + ihl.toNat)) } = true :=
    tOffLegal_iff.2 ⟨_, rfl, by rw [BitVec.toNat_ofNat]; omega⟩
  exact readyAt_ip4Proto_iff.2 ⟨p, hp, .inr (Bool.and_eq_true_iff.2 ⟨hoff, hseg⟩)⟩

theorem ip4Proto_stepsInStage {s : State} (hq : s.seq = .ipv4) (hr : readyAt s .ip4Proto = true) :
    StepsInStage s (stepAt .ip4Proto s) := by
  obtain ⟨p, hp, hcases⟩ := readyAt_ip4Proto_iff.1 hr
  rw [otherProto_iff] at hcases
  have enters_tcp (hl : (tOffLegal s.dp && segLegal s.dp) = true) :
      StepsInStage s (.next (goto .tcp .tcpHdr s)) :=
    .next (.enters _ _ (by rw [hq]; rfl) rfl hl)
  rw [stepAt_ip4Proto hp]
  unfold decodeProto
  split
  · exact enters_tcp (hcases.resolve_left fun h => h.1 ‹_›)
  · split
    · have hl := hcases.resolve_left fun h => h.2 ‹_›
      split
      · exact .next (.enters _ _ (by rw [hq]; rfl) rfl (Bool.and_eq_true_iff.1 hl).1)
      · show StepsInStage s (execIp4UdpOff s)
        unfold execIp4UdpOff
        split
        · exact enters_tcp hl
        · exact .next (.skips .udpDisabled s.dp rfl)
    · exact .next (.skips .ipv4Proto s.dp rfl)

theorem ipv4_stepsInStage {s : State} (hq : s.seq = .ipv4) (hp : pointStage s.point .ipv4 = true)
    (hr : readyAt s s.point = true) : StepsInStage s (stepAt s.point s) := by
  obtain h | h | h | h | h | h | h := pointStage_ipv4 hp <;> rw [h] at hr ⊢
  · exact ip4Hdr_stepsInStage hq hr
  · exact ip4Flags_stepsInStage hq hr
  · exact ip4Ihl_stepsInStage hq hr
  · exact ip4Addr_stepsInStage hq hr
  · exact ip4SegLen_stepsInStage hq hr
  · exact ip4TOff_stepsInStage hq hr
  · exact ip4Proto_stepsInStage hq hr

/-! ## The IPv6 stage -/

theorem ip6Hdr_stepsInStage {s : State} (hq : s.seq = .ipv6) (hr : readyAt s .ip6Hdr = true) :
    StepsInStage s (stepAt .ip6Hdr s) := by
  obtain ⟨ip, hip, -⟩ := curLegal_cases hr
  rw [stepAt_ip6Hdr]
  exact .withReg hip (.need fun hlen => .memRead (by omega)
    (.next (.advances _ _ (by rw [hq]; rfl) rfl)))

theorem ip6Nh_stepsInStage {s : State} (hq : s.seq = .ipv6) (hr : readyAt s .ip6Nh = true) :
    StepsInStage s (stepAt .ip6Nh s) := by
  obtain ⟨nh, hnh⟩ := Option.isSome_iff_exists.1 hr
  have aborts (r : FatalReason) : StepsInStage s (.next (raiseFatal r s)) :=
    .next (.aborts r s.dp (.inr hq))
  rw [stepAt_ip6Nh hnh]
  unfold decodeNh
  split
  · exact aborts .ipv6Tcp
  · split
    · exact aborts .ipv6Hopopt
    · split
      · exact aborts .ipv6Routing
      · split
        · exact aborts .ipv6Fragment
        · exact .next (.skips .ipv6Nh s.dp rfl)

theorem ipv6_stepsInStage {s : State} (hq : s.seq = .ipv6) (hp : pointStage s.point .ipv6 = true)
    (hr : readyAt s s.point = true) : StepsInStage s (stepAt s.point s) := by
  obtain h | h := pointStage_ipv6 hp <;> rw [h] at hr ⊢
  · exact ip6Hdr_stepsInStage hq hr
  · exact ip6Nh_stepsInStage hq hr

/-! ## The TCP and UDP stages -/

theorem tcpHdr_stepsInStage {s : State} (hq : s.seq = .tcp) (hr : readyAt s .tcpHdr = true) :
    StepsInStage s (stepAt .tcpHdr s) := by
  obtain ⟨hoff, -⟩ := Bool.and_eq_true_iff.1 hr
  obtain ⟨t, ht, -⟩ := tOffLegal_iff.1 hoff
  rw [stepAt_tcpHdr]
  refine .withReg ht (.need fun hlen => .next (.advances _ _ (by rw [hq]; rfl) ?_))
  exact Bool.and_eq_true_iff.2 ⟨hr, (tOffInFrame_iff ht 20).2 hlen⟩

theorem tcpDoff_stepsInStage {s : State} (hq : s.seq = .tcp) (hr : readyAt s .tcpDoff = true) :
    StepsInStage s (stepAt .tcpDoff s) := by
  obtain ⟨hregs, hin⟩ := Bool.and_eq_true_iff.1 hr
  obtain ⟨t, ht, -⟩ := tOffLegal_iff.1 (Bool.and_eq_true_iff.1 hregs).1
  have hlen := (tOffInFrame_iff ht 20).1 hin
  have hthl (v : Nat) : (thlOf v).toNat ≤ 60 := by
    rw [thlOf_toNat]
    omega
  rw [stepAt_tcpDoff]
  refine .withReg ht (.memRead (by omega)
    (.skipIf .badHdrLen _ rfl fun _ => .advances _ _ (by rw [hq]; rfl) ?_))
  exact Bool.and_eq_true_iff.2 ⟨hregs, decide_eq_true (hthl _)⟩

/-- Both payload operations go on to TP.NEGLEN with legal values (R138, R140). -/
theorem payload_stepsInStage {s : State} (hq : s.seq = .tcp ∨ s.seq = .udp) {plen : Int}
    {poff : Nat} (hlo : -60 ≤ plen) (hhi : plen ≤ 65535) (hoff : poff ≤ 138) :
    StepsInStage s (.next (advance
      { s.dp with plen := some plen, poff := some (BitVec.ofNat 16 poff) } .tpNegLen s)) := by
  refine .next (.advances _ _ (by obtain h | h := hq <;> rw [h] <;> rfl) ?_)
  exact payloadLegal_iff.2
    ⟨plen, BitVec.ofNat 16 poff, rfl, hlo, hhi, rfl, by rw [BitVec.toNat_ofNat]; omega⟩

theorem tcpPayload_stepsInStage {s : State} (hq : s.seq = .tcp)
    (hr : readyAt s .tcpPayload = true) : StepsInStage s (stepAt .tcpPayload s) := by
  simp only [readyAt, Bool.and_eq_true, Option.any_eq_true, decide_eq_true_eq] at hr
  obtain ⟨⟨hoff, hseg⟩, thl, hthl, hthl60⟩ := hr
  obtain ⟨t, ht, ht78⟩ := tOffLegal_iff.1 hoff
  obtain ⟨seg, hsg, hlo, hhi⟩ := segLegal_iff.1 hseg
  rw [stepAt_tcpPayload]
  exact .withReg hsg (.withReg hthl (.withReg ht
    (payload_stepsInStage (.inl hq) (by omega) (by omega) (by omega))))

theorem udpHdr_stepsInStage {s : State} (hq : s.seq = .udp) (hr : readyAt s .udpHdr = true) :
    StepsInStage s (stepAt .udpHdr s) := by
  obtain ⟨t, ht, -⟩ := tOffLegal_iff.1 hr
  rw [stepAt_udpHdr]
  refine .withReg ht (.need fun hlen => .memRead (by omega)
    (.next (.advances _ _ (by rw [hq]; rfl) ?_)))
  exact Bool.and_eq_true_iff.2 ⟨hr, rfl⟩

theorem udpPayload_stepsInStage {s : State} (hq : s.seq = .udp)
    (hr : readyAt s .udpPayload = true) : StepsInStage s (stepAt .udpPayload s) := by
  obtain ⟨hoff, hlen⟩ := Bool.and_eq_true_iff.1 hr
  obtain ⟨t, ht, ht78⟩ := tOffLegal_iff.1 hoff
  obtain ⟨len, hl⟩ := Option.isSome_iff_exists.1 hlen
  have hlt := len.isLt
  rw [stepAt_udpPayload]
  exact .withReg hl (.withReg ht
    (payload_stepsInStage (.inr hq) (by omega) (by omega) (by omega)))

theorem tpNegLen_stepsInStage {s : State} (hq : s.seq = .tcp ∨ s.seq = .udp)
    (hr : readyAt s .tpNegLen = true) : StepsInStage s (stepAt .tpNegLen s) := by
  obtain ⟨plen, -, hplen, -⟩ := payloadLegal_iff.1 hr
  rw [stepAt_tpNegLen]
  refine .withReg hplen (.skipIf .negativeLength s.dp (p := s.point) rfl fun hneg =>
    .advances _ _ (by obtain h | h := hq <;> rw [h] <;> rfl) ?_)
  refine Bool.and_eq_true_iff.2 ⟨hr, (Option.any_eq_true _ _).2 ⟨plen, hplen, ?_⟩⟩
  exact decide_eq_true (by omega)

theorem tpBounds_stepsInStage {s : State} (hq : s.seq = .tcp ∨ s.seq = .udp)
    (hr : readyAt s .tpBounds = true) : StepsInStage s (stepAt .tpBounds s) := by
  obtain ⟨plen, poff, hplen, -, -, hpoff, -⟩ :=
    payloadLegal_iff.1 (Bool.and_eq_true_iff.1 hr).1
  rw [stepAt_tpBounds]
  exact .withReg hpoff (.withReg hplen (.skipIf .payloadBounds s.dp (p := s.point) rfl fun _ =>
    .advances _ _ (by obtain h | h := hq <;> rw [h] <;> rfl) hr))

theorem tpWrite_stepsInStage {s : State} (hq : s.seq = .tcp ∨ s.seq = .udp)
    (hr : readyAt s .tpWrite = true) : StepsInStage s (stepAt .tpWrite s) := by
  obtain ⟨plen, poff, hplen, -, -, hpoff, -⟩ :=
    payloadLegal_iff.1 (Bool.and_eq_true_iff.1 hr).1
  have hw (k : Transport) : StepsInStage s (exec (.tpWrite k) s) := by
    refine .withReg hpoff (.withReg hplen (.next (.writes _ _ (fun ho => ?_)
      (by obtain h | h := hq <;> rw [h] <;> rfl) rfl)))
    simp only [outLegal, Bool.and_eq_true] at ho ⊢
    exact ⟨ho.1, beq_self_eq_true _⟩
  obtain h | h := hq
  · rw [stepAt_tpWrite_tcp h]
    exact hw .tcp
  · rw [stepAt_tpWrite_udp h]
    exact hw .udp

theorem deliver_stepsInStage {s : State} (hq : s.seq = .tcp ∨ s.seq = .udp) :
    StepsInStage s (stepAt .deliver s) := by
  rw [stepAt_deliver]
  exact .next (.delivers hq)

theorem transportTail_stepsInStage {s : State} (hq : s.seq = .tcp ∨ s.seq = .udp)
    (hp : transportTail s.point) (hr : readyAt s s.point = true) :
    StepsInStage s (stepAt s.point s) := by
  obtain h | h | h | h := hp <;> rw [h] at hr ⊢
  · exact tpNegLen_stepsInStage hq hr
  · exact tpBounds_stepsInStage hq hr
  · exact tpWrite_stepsInStage hq hr
  · exact deliver_stepsInStage hq

theorem tcp_stepsInStage {s : State} (hq : s.seq = .tcp) (hp : pointStage s.point .tcp = true)
    (hr : readyAt s s.point = true) : StepsInStage s (stepAt s.point s) := by
  obtain h | h | h | htail := pointStage_tcp hp
  · rw [h] at hr ⊢
    exact tcpHdr_stepsInStage hq hr
  · rw [h] at hr ⊢
    exact tcpDoff_stepsInStage hq hr
  · rw [h] at hr ⊢
    exact tcpPayload_stepsInStage hq hr
  · exact transportTail_stepsInStage (.inl hq) htail hr

theorem udp_stepsInStage {s : State} (hq : s.seq = .udp) (hp : pointStage s.point .udp = true)
    (hr : readyAt s s.point = true) : StepsInStage s (stepAt s.point s) := by
  obtain h | h | htail := pointStage_udp hp
  · rw [h] at hr ⊢
    exact udpHdr_stepsInStage hq hr
  · rw [h] at hr ⊢
    exact udpPayload_stepsInStage hq hr
  · exact transportTail_stepsInStage (.inr hq) htail hr

/-! ## All stages -/

/-- A ready stage answers a next state, by one of the ways of `StageStep`. -/
theorem stageReady_stepsInStage {s : State} (hparse : s.parsing = true)
    (hready : stageReady s = true) : StepsInStage s (stepAt s.point s) := by
  obtain ⟨hp, hr⟩ := (stageReady_of_parsing hparse).1 hready
  unfold State.parsing at hparse
  cases hq : s.seq <;> rw [hq] at hp hparse
  case eth => exact eth_stepsInStage hq hp hr
  case ipv4 => exact ipv4_stepsInStage hq hp hr
  case ipv6 => exact ipv6_stepsInStage hq hp hr
  case tcp => exact tcp_stepsInStage hq hp hr
  case udp => exact udp_stepsInStage hq hp hr
  all_goals cases hparse

end Sys2Proof.Machine
end

