-- ==== Sys2Proof/Proofs/GoodState.lean ====
section
/-! PROOFS. The invariant with its parts by name, what each part says where the sequencer stands, and
that reset, a stage step and the framer's own updates keep it. -/

namespace Sys2Proof.Machine

/-- `State.inv`, its parts by name. -/
structure GoodState (s : State) : Prop where
  frame : s.frame.wf = true
  latches : latchesAgree s = true
  status : statusLegal s.status = true
  placed : statusPlaced s = true
  out : outLegal s.out = true
  handshakes : handshakesLegal s = true
  ready : stageReady s = true
  framer : framerLegal s.fr = true

theorem inv_iff_goodState {s : State} : s.inv = true ↔ GoodState s := by
  simp only [State.inv, Bool.and_eq_true]
  constructor
  · rintro ⟨⟨⟨⟨⟨⟨⟨hf, hl⟩, hs⟩, hp⟩, ho⟩, hh⟩, hr⟩, hfr⟩
    exact ⟨hf, hl, hs, hp, ho, hh, hr, hfr⟩
  · rintro ⟨hf, hl, hs, hp, ho, hh, hr, hfr⟩
    exact ⟨⟨⟨⟨⟨⟨⟨hf, hl⟩, hs⟩, hp⟩, ho⟩, hh⟩, hr⟩, hfr⟩

/-! ## What the parts say -/

theorem latchesAgree_iff {s : State} :
    latchesAgree s = true ↔
      s.status.aborted = (s.seq == .aborted) ∧ s.status.stopped = (s.seq == .stopped) := by
  simp only [latchesAgree, Bool.and_eq_true, beq_iff_eq]

theorem handshakesLegal_iff {s : State} :
    handshakesLegal s = true ↔
      (s.busy = false ∨ s.req = none) ∧ (s.ack = none ∨ s.seq = .deliver) := by
  simp only [handshakesLegal, Bool.and_eq_true, Bool.or_eq_true, Bool.not_eq_true', beq_iff_eq,
    Option.isNone_iff_eq_none]

/-- Inside a stage no latch is set. -/
theorem latchesAgree_of_parsing {s : State} (h : s.parsing = true) :
    latchesAgree s = true ↔ s.status.aborted = false ∧ s.status.stopped = false := by
  unfold State.parsing at h
  rw [latchesAgree_iff]
  cases hq : s.seq <;> simp only [hq, Bool.false_eq_true] at h ⊢ <;> exact Iff.rfl

/-- Inside a stage the status is no FATAL. -/
theorem statusPlaced_of_parsing {s : State} (h : s.parsing = true) :
    statusPlaced s = true ↔ s.status.outcome ≠ .fatal := by
  unfold State.parsing at h
  unfold statusPlaced
  cases hq : s.seq <;> simp [hq] at h ⊢

/-- Inside a stage no handshake is pending. -/
theorem handshakesLegal_of_parsing {s : State} (h : s.parsing = true) :
    handshakesLegal s = true ↔ s.req = none ∧ s.ack = none := by
  unfold State.parsing at h
  rw [handshakesLegal_iff]
  unfold State.busy
  cases hq : s.seq <;> simp [hq] at h ⊢

/-- Outside DELIVER no acknowledgement is pending. -/
theorem GoodState.ack_eq_none {s : State} (g : GoodState s) (h : s.seq ≠ .deliver) :
    s.ack = none := (handshakesLegal_iff.1 g.handshakes).2.resolve_right h

/-- In DELIVER no latch is set, the outcome is PACKET and no request is pending. -/
theorem GoodState.in_deliver {s : State} (g : GoodState s) (hq : s.seq = .deliver) :
    s.status.aborted = false ∧ s.status.stopped = false ∧ s.status.outcome = .packet ∧
      s.req = none := by
  obtain ⟨haborted, hstopped⟩ := latchesAgree_iff.1 g.latches
  have hbusy : s.busy ≠ false := by simp [State.busy, hq]
  rw [hq] at haborted hstopped
  exact ⟨haborted, hstopped, by simpa [statusPlaced, hq] using g.placed,
    (handshakesLegal_iff.1 g.handshakes).1.resolve_left hbusy⟩

/-! ## The framer's part, by phase -/

/-- What holds of the framer in every phase (R87). -/
def framerBounds (f : Framer) : Prop := f.record.length ≤ 65519 ∧ f.pos ≤ f.stream.length

theorem framerBounds_of_legal {f : Framer} (h : framerLegal f = true) : framerBounds f := by
  simp only [framerLegal, Bool.and_eq_true, decide_eq_true_eq] at h
  exact h.1

/-- Between records nothing more is asked. -/
theorem framerLegal_of_bounds {f : Framer} (h : framerBounds f)
    (hp : f.phase = .hdr ∨ f.phase = .read ∨ f.phase = .type ∨ f.phase = .done) :
    framerLegal f = true := by
  obtain ⟨hrec, hpos⟩ := h
  obtain hp | hp | hp | hp := hp <;> simp [framerLegal, hp, hrec, hpos]

/-- From FR.TYPE on the record is Ethernet (R91). -/
theorem framerLegal_ethernet_iff {f : Framer} (hp : f.phase = .ext ∨ f.phase = .pad) :
    framerLegal f = true ↔ framerBounds f ∧ f.recType = 2 := by
  obtain hp | hp := hp <;> simp [framerLegal, framerBounds, hp]

/-- From FR.PAD on the frame starts inside the record (R93). -/
theorem framerLegal_issue_iff {f : Framer} (hp : f.phase = .issue ∨ f.phase = .wait) :
    framerLegal f = true ↔
      framerBounds f ∧ f.recType = 2 ∧ 2 ≤ f.base ∧ f.base ≤ f.record.length := by
  obtain hp | hp := hp <;> simp [framerLegal, framerBounds, hp]

/-! ## Reset and the stages keep the invariant -/

theorem goodState_resetBlock {s : State} (h : s.frame.wf = true) : GoodState (resetBlock s) :=
  ⟨h, rfl, statusLegal_zero, rfl, outLegal_zero, rfl, rfl, framerLegal_off _⟩

theorem goodState_setFramer {s : State} (g : GoodState s) {f : Framer}
    (hf : framerLegal f = true) : GoodState (setFramer f s) :=
  ⟨g.frame, g.latches, g.status, g.placed, g.out, g.handshakes, g.ready, hf⟩

theorem goodState_acceptState {s : State} (g : GoodState s) {r : Request}
    (h : acceptRefusal s r = none) : GoodState (acceptState r s) := by
  obtain ⟨haborted, hstopped, hseq, -⟩ := (acceptRefusal_eq_none s r).1 h
  have hack : s.ack = none := g.ack_eq_none (by simp [hseq])
  have hplaced : s.status.outcome ≠ .fatal := by simpa [statusPlaced, hseq] using g.placed
  exact ⟨g.frame, (latchesAgree_of_parsing rfl).2 ⟨haborted, hstopped⟩, g.status,
    (statusPlaced_of_parsing rfl).2 hplaced, outLegal_zero,
    (handshakesLegal_of_parsing rfl).2 ⟨rfl, hack⟩, rfl, g.framer⟩

/-- Every way of `StageStep` keeps the invariant. -/
theorem goodState_of_stageStep {s t : State} (g : GoodState s) (hparse : s.parsing = true)
    (h : StageStep s t) : GoodState t := by
  obtain ⟨haborted, hstopped⟩ := (latchesAgree_of_parsing hparse).1 g.latches
  have houtcome := (statusPlaced_of_parsing hparse).1 g.placed
  obtain ⟨hreq, hack⟩ := (handshakesLegal_of_parsing hparse).1 g.handshakes
  cases h with
  | advances d p hp hr =>
    have ht : (advance d p s).parsing = true := hparse
    exact ⟨g.frame, g.latches, g.status, g.placed, g.out, g.handshakes,
      (stageReady_of_parsing ht).2 ⟨hp, hr⟩, g.framer⟩
  | writes o p ho hp hr =>
    have ht : State.parsing { s with out := o, point := p } = true := hparse
    exact ⟨g.frame, g.latches, g.status, g.placed, ho g.out, g.handshakes,
      (stageReady_of_parsing ht).2 ⟨hp, hr⟩, g.framer⟩
  | enters q p _ hp hr =>
    have ht : (goto q p s).parsing = true := parsing_of_pointStage hp
    exact ⟨g.frame, (latchesAgree_of_parsing ht).2 ⟨haborted, hstopped⟩, g.status,
      (statusPlaced_of_parsing ht).2 houtcome, g.out,
      (handshakesLegal_of_parsing ht).2 ⟨hreq, hack⟩,
      (stageReady_of_parsing ht).2 ⟨hp, hr⟩, g.framer⟩
  | skips r d hr =>
    exact ⟨g.frame, latchesAgree_iff.2 ⟨haborted, hstopped⟩, by simp [statusLegal, hr], rfl, g.out,
      handshakesLegal_iff.2 ⟨.inr hreq, .inl hack⟩, rfl, g.framer⟩
  | aborts r d =>
    exact ⟨g.frame, latchesAgree_iff.2 ⟨rfl, hstopped⟩, rfl, rfl, g.out,
      handshakesLegal_iff.2 ⟨.inr hreq, .inl hack⟩, rfl, g.framer⟩
  | delivers =>
    exact ⟨g.frame, latchesAgree_iff.2 ⟨haborted, hstopped⟩, rfl, rfl, g.out,
      handshakesLegal_iff.2 ⟨.inr hreq, .inl hack⟩, rfl, g.framer⟩

end Sys2Proof.Machine
end

