-- ==== Sys2Proof/Proofs/OuterStep.lean ====
section
/-! PROOFS. What a step outside every stage can do, said once: wait, take or refuse a handshake, or run the
framer (R76, R83, R95, R98). -/

namespace Sys2Proof.Machine

/-- The result of a step outside every stage, with reset released. -/
inductive OuterStep (s : State) : Result → Prop where
  | waits : OuterStep s (.next s)
  | refuses (e : Refusal) : OuterStep s (.refused e)
  | accepts (r : Request) : acceptRefusal s r = none → OuterStep s (.next (acceptState r s))
  /-- The Sink's acknowledgement, taken in DELIVER. -/
  | resumes : s.seq = .deliver →
      OuterStep s (.next { s with ack := none, seq := .idle, point := .accept })
  /-- The same, with the Sink's stop bit. -/
  | stops : s.seq = .deliver →
      OuterStep s (.next { s with
        ack := none
        status := { s.status with stopped := true }
        seq := .stopped
        point := .accept })
  /-- An operation of the framer that changes the framer alone. -/
  | frames (f : Framer) : framerLegal f = true → OuterStep s (.next (setFramer f s))
  /-- FR.ISSUE presents its request. -/
  | presents (m : Memory) (r : Request) (f : Framer) : s.seq = .idle → m.wf = true →
      framerLegal f = true → OuterStep s (.next { s with frame := m, req := some r, fr := f })

/-! ## The framer's operations -/

theorem framerLegal_endStream {f : Framer} (h : framerBounds f) :
    framerLegal (endStream f) = true :=
  framerLegal_of_bounds h (.inr (.inr (.inr rfl)))

theorem framerLegal_truncate {f : Framer} (h : framerBounds f) :
    framerLegal (truncate f) = true :=
  framerLegal_of_bounds h (.inr (.inr (.inr rfl)))

theorem framerLegal_skipRecord (r : SkipReason) {f : Framer} (h : framerBounds f) :
    framerLegal (skipRecord r f) = true :=
  framerLegal_of_bounds h (.inl rfl)

theorem frHdr_outerStep {s : State} (h : framerBounds s.fr) :
    OuterStep s (stepAt .frHdr s) := by
  rw [stepAt_frHdr]
  refine .frames _ ?_
  split
  · exact framerLegal_endStream h
  · split
    · exact framerLegal_truncate h
    · rename_i havail
      unfold Framer.avail at havail
      refine framerLegal_of_bounds ⟨h.1, ?_⟩ (.inr (.inl rfl))
      show s.fr.pos + 16 ≤ s.fr.stream.length
      omega

theorem frRead_outerStep {s : State} (h : framerBounds s.fr) :
    OuterStep s (stepAt .frRead s) := by
  rw [stepAt_frRead]
  refine .frames _ ?_
  split
  · exact framerLegal_truncate h
  · split
    · exact framerLegal_truncate h
    · rename_i havail
      unfold Framer.avail at havail
      obtain ⟨-, hpos⟩ := h
      have htlen := s.fr.tlen.isLt
      refine framerLegal_of_bounds ⟨?_, ?_⟩ (.inr (.inr (.inl rfl)))
      · show (s.fr.nextBytes (s.fr.tlen.toNat - 16)).length ≤ 65519
        rw [Framer.nextBytes, List.length_take]
        omega
      · show s.fr.pos + (s.fr.tlen.toNat - 16) ≤ s.fr.stream.length
        omega

theorem frType_outerStep {s : State} (h : framerBounds s.fr) :
    OuterStep s (stepAt .frType s) := by
  rw [stepAt_frType]
  refine .frames _ ?_
  split
  · exact (framerLegal_ethernet_iff (.inl rfl)).2 ⟨h, ‹_›⟩
  · exact framerLegal_skipRecord _ h

theorem execFrPad_outerStep {s : State} (h : framerBounds s.fr) (ht : s.fr.recType = 2) :
    OuterStep s (exec .frPad s) := by
  refine .frames _ ?_
  dsimp only
  generalize (if s.fr.ext = true then s.fr.blocks else 0) = k
  split
  · exact framerLegal_skipRecord _ h
  · rename_i hlen
    exact (framerLegal_issue_iff (.inl rfl)).2 ⟨h, ht, by dsimp only; omega, Nat.not_lt.1 hlen⟩

theorem execFrExt_outerStep {s : State} (h : framerBounds s.fr) (ht : s.fr.recType = 2) :
    OuterStep s (exec .frExt s) := by
  refine .frames _ ?_
  split
  · split
    · exact (framerLegal_ethernet_iff (.inr rfl)).2 ⟨h, ht⟩
    · exact framerLegal_skipRecord _ h
  · exact (framerLegal_ethernet_iff (.inr rfl)).2 ⟨h, ht⟩

theorem frExt_outerStep {s : State} (h : framerBounds s.fr) (ht : s.fr.recType = 2) :
    OuterStep s (stepAt .frExt s) := by
  rw [stepAt_frExt]
  split
  · exact execFrExt_outerStep h ht
  · exact execFrPad_outerStep h ht

/-- The first half of FR.ISSUE (R95). -/
theorem frPresent_outerStep {s : State} (g : GoodState s) (hq : s.seq = .idle)
    (hp : s.fr.phase = .issue) : OuterStep s (stepAt .frIssue s) := by
  obtain ⟨hbounds, ht, hbase⟩ := (framerLegal_issue_iff (.inl hp)).1 g.framer
  have hexec : exec .frIssue s = frPresent s := by simp only [exec, execFrIssue, hp]
  have hlen : (s.fr.record.drop s.fr.base).length ≤ 65519 := by
    rw [List.length_drop]
    exact (Nat.sub_le _ _).trans hbounds.1
  rw [stepAt_frIssue ht, hexec]
  unfold frPresent
  split
  · exact .refuses _
  · exact .presents _ _ _ hq (Memory.wf_writeBytes g.frame (by omega))
      ((framerLegal_issue_iff (.inr rfl)).2 ⟨hbounds, ht, hbase⟩)

/-- The second half of FR.ISSUE (R95, R98). -/
theorem frCollect_outerStep {s : State} (hf : framerLegal s.fr = true) (hp : s.fr.phase = .wait) :
    OuterStep s (stepAt .frIssue s) := by
  obtain ⟨hbounds, ht, -⟩ := (framerLegal_issue_iff (.inr hp)).1 hf
  have hexec : exec .frIssue s = frCollect s := by simp only [exec, execFrIssue, hp]
  rw [stepAt_frIssue ht, hexec]
  unfold frCollect
  split
  · exact .waits
  · split
    · exact .waits
    · split
      · exact .frames _ (framerLegal_of_bounds hbounds (.inr (.inr (.inr rfl))))
      · exact .frames _ (framerLegal_of_bounds hbounds (.inl rfl))
    · exact .frames _ (framerLegal_of_bounds hbounds (.inl rfl))
    · exact .frames _ (framerLegal_of_bounds hbounds (.inr (.inr (.inr rfl))))

/-- The framer's next operation, while the block waits in IDLE. -/
theorem framer_outerStep {s : State} (g : GoodState s) (hq : s.seq = .idle) {p : Point}
    (hp : s.fr.phase.point = some p) : OuterStep s (stepAt p s) := by
  have hbounds := framerBounds_of_legal g.framer
  cases hph : s.fr.phase <;> rw [hph] at hp <;> cases hp
  case hdr => exact frHdr_outerStep hbounds
  case read => exact frRead_outerStep hbounds
  case type => exact frType_outerStep hbounds
  case ext =>
    exact frExt_outerStep hbounds ((framerLegal_ethernet_iff (.inl hph)).1 g.framer).2
  case pad =>
    exact execFrPad_outerStep hbounds ((framerLegal_ethernet_iff (.inr hph)).1 g.framer).2
  case issue => exact frPresent_outerStep g hq hph

/-! ## The handshakes -/

theorem accept_outerStep (s : State) : OuterStep s (stepAt .accept s) := by
  rw [stepAt_accept]
  show OuterStep s (execTxnAccept s)
  unfold execTxnAccept
  split
  · exact .refuses _
  · split
    · exact .refuses _
    · exact .accepts _ ‹_›

theorem ack_outerStep {s : State} (hq : s.seq = .deliver) (ha : s.ack.isSome = true) :
    OuterStep s (stepAt .ack s) := by
  obtain ⟨stop, hstop⟩ := Option.isSome_iff_exists.1 ha
  have hnot : ¬ s.seq ≠ .deliver := not_not.2 hq
  rw [stepAt_ack hstop]
  show OuterStep s (execTxnAck stop s)
  unfold execTxnAck
  rw [if_neg hnot]
  cases stop
  · exact .resumes hq
  · exact .stops hq

/-! ## Every point outside the stages -/

/-- Outside DELIVER and the stages a handshake is a request. -/
theorem handshakePoint_outerStep {s : State} (ha : s.ack = none) {p : Point}
    (h : handshakePoint s = some p) : OuterStep s (stepAt p s) := by
  simp only [handshakePoint, ha, Option.isSome_none, Bool.false_eq_true, if_false] at h
  split at h
  · cases h
    exact accept_outerStep s
  · cases h

theorem framerCollects_outerStep {s : State} (g : GoodState s) (h : framerCollects s = true) :
    OuterStep s (stepAt .frIssue s) := by
  simp only [framerCollects, Bool.and_eq_true, beq_iff_eq] at h
  exact frCollect_outerStep g.framer h.1

/-- After a latch the framer may collect its outcome, and every request is answered by TXN.ACCEPT. -/
theorem latched_outerStep {s : State} (g : GoodState s) (hq : s.seq ≠ .deliver) {p : Point}
    (h : (if framerCollects s then some .frIssue else handshakePoint s) = some p) :
    OuterStep s (stepAt p s) := by
  split at h
  · cases h
    exact framerCollects_outerStep g ‹_›
  · exact handshakePoint_outerStep (g.ack_eq_none hq) h

theorem idle_outerStep {s : State} (g : GoodState s) (hq : s.seq = .idle) {p : Point}
    (h : nextPoint s = some p) : OuterStep s (stepAt p s) := by
  unfold nextPoint at h
  rw [hq] at h
  dsimp only at h
  split at h
  · cases h
    exact framerCollects_outerStep g ‹_›
  · split at h
    · rename_i q hhand
      cases h
      exact handshakePoint_outerStep (g.ack_eq_none (by simp [hq])) hhand
    · exact framer_outerStep g hq h

theorem deliver_outerStep {s : State} (g : GoodState s) (hq : s.seq = .deliver) {p : Point}
    (h : nextPoint s = some p) : OuterStep s (stepAt p s) := by
  obtain ⟨-, -, -, hreq⟩ := g.in_deliver hq
  unfold nextPoint at h
  rw [hq, hreq] at h
  dsimp only at h
  split at h
  · cases h
    exact ack_outerStep hq ‹_›
  · cases h

/-- With reset released a good state outside every stage steps in one of the ways of `OuterStep`. -/
theorem goodState_outerStep {s : State} (g : GoodState s) (hr : s.rst = false)
    (hparse : s.parsing = false) : OuterStep s (step s) := by
  cases hn : nextPoint s with
  | none =>
    have hwait : step s = .next s := by simp [step, hr, hn]
    rw [hwait]
    exact .waits
  | some p =>
    rw [step_eq_stepAt hr hn]
    unfold State.parsing at hparse
    cases hq : s.seq <;> rw [hq] at hparse
    case idle => exact idle_outerStep g hq hn
    case deliver => exact deliver_outerStep g hq hn
    case aborted =>
      unfold nextPoint at hn
      rw [hq] at hn
      exact latched_outerStep g (by simp [hq]) hn
    case stopped =>
      unfold nextPoint at hn
      rw [hq] at hn
      exact latched_outerStep g (by simp [hq]) hn
    all_goals cases hparse

/-- Every way of `OuterStep` that answers a next state keeps the invariant. -/
theorem goodState_of_outerStep {s t : State} (g : GoodState s) (h : OuterStep s (.next t)) :
    GoodState t := by
  cases h with
  | waits => exact g
  | accepts r hr => exact goodState_acceptState g hr
  | frames f hf => exact goodState_setFramer g hf
  | resumes hq =>
    obtain ⟨haborted, hstopped, houtcome, hreq⟩ := g.in_deliver hq
    exact ⟨g.frame, latchesAgree_iff.2 ⟨haborted, hstopped⟩, g.status, by simp [statusPlaced, houtcome], g.out,
      handshakesLegal_iff.2 ⟨.inr hreq, .inl rfl⟩, rfl, g.framer⟩
  | stops hq =>
    obtain ⟨haborted, hstopped, houtcome, hreq⟩ := g.in_deliver hq
    exact ⟨g.frame, latchesAgree_iff.2 ⟨haborted, rfl⟩, g.status, by simp [statusPlaced, houtcome],
      g.out, handshakesLegal_iff.2 ⟨.inr hreq, .inl rfl⟩, rfl, g.framer⟩
  | presents m r f hq hm hf =>
    have hack : s.ack = none := g.ack_eq_none (by simp [hq])
    exact ⟨hm, g.latches, g.status, g.placed, g.out,
      handshakesLegal_iff.2 ⟨.inl (by simp [State.busy, hq]), .inl hack⟩, g.ready, hf⟩

end Sys2Proof.Machine
end

