-- ==== Sys2Proof/Proofs/Invariant.lean ====
section
/-! PROOFS. The statements about good states: the base case, the step, the agents, and what a step inside a
stage or after a latch leaves unchanged. Each is a case analysis over `StageStep` or `OuterStep`. -/

namespace Sys2Proof.Machine

/-! ## Every step -/

/-- In a stage a good state steps in one of the ways of `StageStep`. -/
theorem goodState_stageStep {s : State} (g : GoodState s) (hr : s.rst = false)
    (hparse : s.parsing = true) : StepsInStage s (step s) := by
  rw [step_parsing hr hparse]
  exact stageReady_stepsInStage hparse g.ready

theorem stageStep_of_step {s t : State} (hinv : s.inv = true) (hr : s.rst = false)
    (hparse : s.parsing = true) (h : step s = .next t) : StageStep s t := by
  obtain ⟨u, hu, hstep⟩ := goodState_stageStep (inv_iff_goodState.1 hinv) hr hparse
  rw [h] at hu
  cases hu
  exact hstep

/-- While reset is asserted every step is a reset (R167). -/
theorem step_of_rst {s : State} (hr : s.rst = true) : step s = .next (resetBlock s) := by
  simp [step, hr]

/-- Settles O45: the reset state is what reset leaves of it. -/
theorem resetStateIsGood : Obligations.ResetStateIsGood :=
  inv_iff_goodState.2 (goodState_resetBlock (s := State.reset) rfl)

/-- Settles O46: reset, a stage step and an outer step each keep the parts of the invariant. -/
theorem stepKeepsGoodStates : Obligations.StepKeepsGoodStates := by
  intro s t hinv h
  have g := inv_iff_goodState.1 hinv
  refine inv_iff_goodState.2 ?_
  cases hr : s.rst with
  | true =>
    rw [step_of_rst hr] at h
    cases h
    exact goodState_resetBlock g.frame
  | false =>
    cases hparse : s.parsing with
    | true => exact goodState_of_stageStep g hparse (stageStep_of_step hinv hr hparse h)
    | false => exact goodState_of_outerStep g (h ▸ goodState_outerStep g hr hparse)

/-- Settles O48: a stage answers a next state, and no outer step is a fault. -/
theorem goodStatesNeverFault : Obligations.GoodStatesNeverFault := by
  intro s hinv
  have g := inv_iff_goodState.1 hinv
  have not_faults_next {t : State} (h : step s = .next t) : ¬ faults (step s) := by
    rintro ⟨f, hf⟩
    rw [h] at hf
    cases hf
  cases hr : s.rst with
  | true => exact ⟨not_faults_next (step_of_rst hr), fun _ => ⟨_, step_of_rst hr⟩⟩
  | false =>
    cases hparse : s.parsing with
    | true =>
      obtain ⟨t, ht, -⟩ := goodState_stageStep g hr hparse
      exact ⟨not_faults_next ht, fun _ => ⟨t, ht⟩⟩
    | false =>
      refine ⟨?_, fun h => by cases h⟩
      rintro ⟨f, hf⟩
      have houter := goodState_outerStep g hr hparse
      rw [hf] at houter
      cases houter

/-! ## The other agents -/

theorem goodState_producerStep {s t : State} (g : GoodState s) {a : ProducerAct}
    (h : producerStep a s = .next t) : GoodState t := by
  cases a with
  | writeFrame o b =>
    obtain ⟨-, -, rfl⟩ := writeFrame_next h
    exact ⟨Memory.wf_write g.frame o.isLt b, g.latches, g.status, g.placed, g.out, g.handshakes,
      g.ready, g.framer⟩
  | setIncludeUdp v =>
    cases h
    exact ⟨g.frame, g.latches, g.status, g.placed, g.out, g.handshakes, g.ready, g.framer⟩
  | present r =>
    obtain ⟨haccept, -, -, rfl⟩ := present_next h
    obtain ⟨-, -, hq, -⟩ := (acceptRefusal_eq_none s r).1 haccept
    have hack : s.ack = none := g.ack_eq_none (by simp [hq])
    exact ⟨g.frame, g.latches, g.status, g.placed, g.out,
      handshakesLegal_iff.2 ⟨.inl (by simp [State.busy, hq]), .inl hack⟩, g.ready, g.framer⟩
  | startRun bs =>
    obtain ⟨-, -, -, -, -, rfl⟩ := startRun_next h
    exact goodState_setFramer g
      (framerLegal_of_bounds ⟨Nat.zero_le _, Nat.zero_le _⟩ (.inl rfl))

theorem goodState_sinkStep {s t : State} (g : GoodState s) {a : SinkAct}
    (h : sinkStep a s = .next t) : GoodState t := by
  obtain ⟨hq, -, stop, rfl⟩ := sinkStep_next h
  obtain ⟨-, -, -, hreq⟩ := g.in_deliver hq
  exact ⟨g.frame, g.latches, g.status, g.placed, g.out,
    handshakesLegal_iff.2 ⟨.inr hreq, .inr hq⟩, g.ready, g.framer⟩

/-- The invariant does not look at the reset input. -/
theorem goodState_rst {s : State} (g : GoodState s) (b : Bool) : GoodState { s with rst := b } :=
  ⟨g.frame, g.latches, g.status, g.placed, g.out, g.handshakes, g.ready, g.framer⟩

theorem goodState_integratorStep {s t : State} (g : GoodState s) {b : Bool}
    (h : integratorStep b s = .next t) : GoodState t := by
  cases b <;> cases h
  · exact goodState_rst g false
  · exact goodState_rst (goodState_resetBlock g.frame) true

/-- Settles O47: agent by agent, through what each agent's step can do. -/
theorem agentsKeepGoodStates : Obligations.AgentsKeepGoodStates := by
  intro s t hinv
  have g := inv_iff_goodState.1 hinv
  exact ⟨fun _ h => inv_iff_goodState.2 (goodState_producerStep g h),
    fun _ h => inv_iff_goodState.2 (goodState_sinkStep g h),
    fun _ h => inv_iff_goodState.2 (goodState_integratorStep g h)⟩

/-! ## What a stage step leaves unchanged -/

/-- A stage step writes only registers, `out`, the status and the sequencer. -/
theorem stageStep_frame {s t : State} (h : StageStep s t) :
    ∃ d o st q p, t = { s with dp := d, out := o, status := st, seq := q, point := p } := by
  cases h <;> exact ⟨_, _, _, _, _, rfl⟩

/-- The status is written only with the end of the transaction (R25). -/
theorem stageStep_status {s t : State} (h : StageStep s t) (ht : t.parsing = true) :
    t.status = s.status := by
  cases h with
  | advances => rfl
  | writes => rfl
  | enters => rfl
  | skips => cases ht
  | aborts => cases ht
  | delivers => cases ht

/-- Settles O49: the inputs are outside what a stage step writes. -/
theorem stageStepsKeepTheInputs : Obligations.StageStepsKeepTheInputs := by
  intro s t hinv hr hparse h
  have hstep := stageStep_of_step hinv hr hparse h
  obtain ⟨d, o, st, q, p, rfl⟩ := stageStep_frame hstep
  exact ⟨fun _ => rfl, rfl, rfl, rfl, rfl, rfl, rfl, rfl, rfl, rfl, rfl, rfl, rfl,
    stageStep_status hstep⟩

/-- Every stage may go on, and every stage may skip (R73). -/
theorem stageEdge_of_parsing {s : State} (h : s.parsing = true) :
    stageEdge s.seq s.seq = true ∧ stageEdge s.seq .idle = true := by
  unfold State.parsing at h
  cases hq : s.seq <;> simp [hq, stageEdge] at h ⊢

/-- Settles O51: each way of `StageStep` is an edge of the diagram. -/
theorem stagesFollowTheDiagram : Obligations.StagesFollowTheDiagram := by
  intro s t hinv hr hparse h
  obtain ⟨hself, hidle⟩ := stageEdge_of_parsing hparse
  cases stageStep_of_step hinv hr hparse h with
  | advances => exact hself
  | writes => exact hself
  | enters q p hedge => exact hedge
  | skips => exact hidle
  | aborts r d hq => obtain hq | hq := hq <;> simp [hq, stageEdge]
  | delivers hq => obtain hq | hq := hq <;> simp [hq, stageEdge]

/-! ## After a latch -/

/-- A latch is set only in ABORTED and STOPPED (R26, R27). -/
theorem seq_of_latched {s : State} (g : GoodState s)
    (h : s.status.aborted = true ∨ s.status.stopped = true) :
    s.seq = .aborted ∨ s.seq = .stopped := by
  obtain ⟨haborted, hstopped⟩ := latchesAgree_iff.1 g.latches
  rw [haborted, hstopped] at h
  simpa using h

/-- Settles O52: after a latch the block accepts nothing and delivers nothing, and the framer's own
operations touch neither `seq` nor the status nor `out`. -/
theorem latchesHoldUntilReset : Obligations.LatchesHoldUntilReset := by
  intro s t hinv hr hlatch h
  have g := inv_iff_goodState.1 hinv
  have hq := seq_of_latched g hlatch
  have hparse : s.parsing = false := by
    obtain hq | hq := hq <;> simp [State.parsing, hq]
  have hdeliver : s.seq ≠ .deliver := by
    obtain hq | hq := hq <;> simp [hq]
  have houter := goodState_outerStep g hr hparse
  rw [h] at houter
  cases houter with
  | waits => exact ⟨rfl, rfl, rfl⟩
  | accepts r haccept =>
    obtain ⟨haborted, hstopped, -⟩ := (acceptRefusal_eq_none s r).1 haccept
    simp [haborted, hstopped] at hlatch
  | resumes hd => exact absurd hd hdeliver
  | stops hd => exact absurd hd hdeliver
  | frames f hf => exact ⟨rfl, rfl, rfl⟩
  | presents m r f hidle hm hf => exact ⟨rfl, rfl, rfl⟩

end Sys2Proof.Machine
end

