-- ==== Sys2Proof/Proofs/Handshakes.lean ====
section
/-! PROOFS. What the producer's and the Sink's steps answer, one equation for each case of their guards, and
the statements on the reset values, the refused requests and the turns on the frame buffer. -/

namespace Sys2Proof.Machine

/-- Settles O2: the values of `State.reset` field by field; with nothing pending no point has its turn. -/
theorem resetStateHasTheListedValues : Obligations.ResetStateHasTheListedValues :=
  ⟨rfl, rfl, rfl, rfl, rfl, rfl, rfl, rfl, rfl, rfl⟩

/-! ## Requests -/

theorem present_refused {s : State} {r : Request} {e : Refusal} (h : acceptRefusal s r = some e) :
    producerStep (.present r) s = .refused e := by
  simp only [producerStep, h]

theorem txnAccept_refused {s : State} {r : Request} {e : Refusal} (hreq : s.req = some r)
    (h : acceptRefusal s r = some e) : exec .txnAccept s = .refused e := by
  simp only [exec, execTxnAccept, hreq, h]

/-- A request the block would not accept is refused by the same name at both places. -/
theorem request_refused {s : State} {r : Request} {e : Refusal} (h : acceptRefusal s r = some e) :
    producerStep (.present r) s = .refused e ∧
      (s.req = some r → exec .txnAccept s = .refused e) :=
  ⟨present_refused h, fun hreq => txnAccept_refused hreq h⟩

/-- Settles O4: R71's precondition, term by term. -/
theorem unacceptableRequestsAreRefused : Obligations.UnacceptableRequestsAreRefused := by
  intro s r
  refine ⟨fun ha => ?_, fun ha hs => ?_, fun ha hs hq => ?_, fun ha hs hq hlen => ?_⟩
  · exact request_refused (by simp [acceptRefusal, ha])
  · exact request_refused (by simp [acceptRefusal, ha, hs])
  · exact request_refused (by simp [acceptRefusal, ha, hs, hq])
  · exact request_refused (by simp [acceptRefusal, ha, hs, hq, hlen])

theorem present_inReset {s : State} {r : Request} (h : acceptRefusal s r = none)
    (hr : s.rst = true) : producerStep (.present r) s = .refused .inReset := by
  simp only [producerStep, h, hr, if_true]

theorem present_inRun {s : State} {r : Request} (h : acceptRefusal s r = none)
    (hr : s.rst = false) (hrun : s.fr.inRun = true) :
    producerStep (.present r) s = .refused .secondProducer := by
  simp [producerStep, h, hr, hrun]

theorem present_taken {s : State} {r : Request} (h : acceptRefusal s r = none)
    (hr : s.rst = false) (hrun : s.fr.inRun = false) :
    producerStep (.present r) s = .next { s with req := some r } := by
  simp [producerStep, h, hr, hrun]

/-! ## Writes of the frame buffer -/

theorem writeFrame_bufferTaken {s : State} (h : s.bufferTaken = true) (o : Half) (b : Byte) :
    producerStep (.writeFrame o b) s = .refused .bufferOwned := by
  simp only [producerStep, h, if_true]

theorem writeFrame_inRun {s : State} (h : s.bufferTaken = false) (hrun : s.fr.inRun = true)
    (o : Half) (b : Byte) : producerStep (.writeFrame o b) s = .refused .secondProducer := by
  simp [producerStep, h, hrun]

theorem writeFrame_taken {s : State} (h : s.bufferTaken = false) (hrun : s.fr.inRun = false)
    (o : Half) (b : Byte) :
    producerStep (.writeFrame o b) s = .next { s with frame := s.frame.write o.toNat b } := by
  simp [producerStep, h, hrun]

/-- The block is in no transaction exactly in IDLE and after a latch (R169). -/
theorem busy_eq_false_iff {s : State} :
    s.busy = false ↔ s.seq = .idle ∨ s.seq = .aborted ∨ s.seq = .stopped := by
  unfold State.busy
  cases s.seq <;> simp

/-! ## Framer runs -/

theorem startRun_inReset {s : State} (hr : s.rst = true) (bs : List Byte) :
    producerStep (.startRun bs) s = .refused .inReset := by
  simp only [producerStep, hr, if_true]

/-- With reset released and no run started before, the buffer and the latches decide. -/
theorem startRun_off {s : State} (hr : s.rst = false) (hp : s.fr.phase = .off) (bs : List Byte) :
    producerStep (.startRun bs) s =
      if s.bufferTaken then .refused .secondProducer
      else if s.status.aborted then .refused .requestWhileAborted
      else if s.status.stopped then .refused .requestWhileStopped
      else .next { s with fr := { Framer.off with stream := bs, phase := .hdr } } := by
  simp [producerStep, hr, hp]

/-! ## The Sink -/

theorem viewValid_eq_false {s : State} : viewValid s = false ↔ s.seq ≠ .deliver ∨ s.ack ≠ none := by
  rw [← Bool.not_eq_true, viewValid_iff, not_and_or]

theorem sinkRecord_valid {s : State} (h : viewValid s = true) : sinkRecord s = some s.out := by
  simp only [sinkRecord, h, if_true]

theorem sinkRecord_invalid {s : State} (h : viewValid s = false) : sinkRecord s = none := by
  simp [sinkRecord, h]

theorem inView_iff {s : State} {o : Nat} :
    inView s o = true ↔
      s.out.payloadOff.toNat ≤ o ∧ o < s.out.payloadOff.toNat + s.out.payloadLen.toNat := by
  simp only [inView, Bool.and_eq_true, decide_eq_true_eq]

/-- A byte of a valid view, inside the frame, is the frame's (R41). -/
theorem sinkReadByte_inside {s : State} {o : Nat} (hv : viewValid s = true)
    (hin : inView s o = true) (hlen : o < s.frameLen.toNat) :
    sinkReadByte o s = (s.frame.read o, s) := by
  obtain ⟨-, -, -, h⟩ | ⟨hnot, -⟩ := sinkReadByte_cases o s
  · exact h
  · exact absurd ⟨hv, hin, hlen⟩ hnot

/-- Every other read changes the counter of free values alone (I7, I8). -/
theorem sinkReadByte_outside {s : State} {o : Nat}
    (h : ¬ (viewValid s = true ∧ inView s o = true ∧ o < s.frameLen.toNat)) :
    (sinkReadByte o s).2 = { s with free := s.free + 1 } := by
  obtain ⟨hv, hin, hlen, -⟩ | ⟨-, hread⟩ := sinkReadByte_cases o s
  · exact absurd ⟨hv, hin, hlen⟩ h
  · rw [hread]

theorem sinkStep_again {s : State} (a : SinkAct) (hq : s.seq = .deliver) (ha : s.ack ≠ none) :
    sinkStep a s = .refused .ackAlreadyGiven := by
  simp [sinkStep, hq, Option.isSome_iff_ne_none, ha]

/-! ## The turns on the frame buffer -/

/-- Settles O7: the producer's write, request and run, then the Sink's record, reads and acknowledgement,
each through the equation of its case. -/
theorem producerAndSinkTakeTurnsOnTheFrame : Obligations.ProducerAndSinkTakeTurnsOnTheFrame := by
  intro s
  have inRun_of_ne (hoff : s.fr.phase ≠ .off) (hdone : s.fr.phase ≠ .done) : s.fr.inRun = true :=
    Bool.of_not_eq_false fun h => (inRun_eq_false.1 h).elim hoff hdone
  refine ⟨?write, ?writeBusy, ?writeReq, ?writeRun, ?present, ?presentRun, ?runLatched, ?runStarts,
    ?runBusy, ?presentReset, ?runReset, rfl, ?record, ?noRecord, ?viewByte, ?viewEnd, ?otherByte,
    ?again⟩
  case write =>
    intro o b hwf hseq hreq hphase
    have hfree := bufferTaken_eq_false.2 ⟨busy_eq_false_iff.2 hseq, hreq⟩
    refine ⟨_, writeFrame_taken hfree (inRun_eq_false.2 hphase) o b, rfl,
      Memory.wf_write hwf o.isLt b, ?_, fun a ha => ?_⟩
    · show (s.frame.write o.toNat b).read o.toNat = b
      rw [Memory.read_write hwf, if_pos rfl]
    · show (s.frame.write o.toNat b).read a = s.frame.read a
      rw [Memory.read_write hwf, if_neg ha]
  case writeBusy =>
    intro o b hidle haborted hstopped
    have hbusy : s.busy = true := Bool.of_not_eq_false fun h =>
      (busy_eq_false_iff.1 h).elim hidle fun h => h.elim haborted hstopped
    exact writeFrame_bufferTaken (bufferTaken_eq_true.2 (.inl hbusy)) o b
  case writeReq =>
    exact fun o b hreq => writeFrame_bufferTaken (bufferTaken_eq_true.2 (.inr hreq)) o b
  case writeRun =>
    intro o b hbusy hreq hoff hdone
    exact writeFrame_inRun (bufferTaken_eq_false.2 ⟨hbusy, hreq⟩) (inRun_of_ne hoff hdone) o b
  case present => exact fun r ha hr hphase => present_taken ha hr (inRun_eq_false.2 hphase)
  case presentRun => exact fun r ha hr hoff hdone => present_inRun ha hr (inRun_of_ne hoff hdone)
  case runLatched =>
    intro bs hr hp hbusy hreq
    have hfree := bufferTaken_eq_false.2 ⟨hbusy, hreq⟩
    rw [startRun_off hr hp bs, hfree]
    exact ⟨fun ha => by simp [ha], fun ha hs => by simp [ha, hs]⟩
  case runStarts =>
    intro bs hr hp hbusy hreq ha hs
    have hfree := bufferTaken_eq_false.2 ⟨hbusy, hreq⟩
    simp [startRun_off hr hp bs, hfree, ha, hs]
  case runBusy =>
    intro bs hr hp htaken
    rw [startRun_off hr hp bs, bufferTaken_eq_true.2 htaken, if_pos rfl]
  case presentReset => exact fun r ha hr => present_inReset ha hr
  case runReset => exact fun bs hr => startRun_inReset hr bs
  case record => exact fun hq ha => sinkRecord_valid (viewValid_iff.2 ⟨hq, ha⟩)
  case noRecord => exact fun h => sinkRecord_invalid (viewValid_eq_false.2 h)
  case viewByte =>
    intro i hi hq ha hlen
    have hin : inView s (s.out.payloadOff.toNat + i) = true := inView_iff.2 ⟨by omega, by omega⟩
    exact ⟨if_pos hi, sinkReadByte_inside (viewValid_iff.2 ⟨hq, ha⟩) hin hlen⟩
  case viewEnd => exact fun i hi => if_neg (Nat.not_lt.2 hi)
  case otherByte =>
    intro o h
    refine sinkReadByte_outside fun ⟨hv, hin, hlen⟩ => ?_
    obtain ⟨hq, ha⟩ := viewValid_iff.1 hv
    obtain ⟨hlo, hhi⟩ := inView_iff.1 hin
    obtain h | h | h | h | h := h
    · exact h hq
    · exact h ha
    all_goals omega
  case again => exact fun a hq ha => sinkStep_again a hq ha

end Sys2Proof.Machine
end

