-- ==== Sys2Proof/Proofs/Delivered.lean ====
section
/-! PROOFS. What a delivered record holds, carried through `parse` from the transport stages out to the
Ethernet stage; each stage adds its header to the bound on the payload's offset (R58, R138, R140). -/

namespace Sys2Proof.Machine

/-- If `p` delivers, its record is a TCP or UDP one with equal lengths, its payload starts at most at 138,
and with the bounds check on it ends inside the `len` bytes of the frame. -/
def DeliversInside (P : Params) (len : Nat) (p : ParseResult) : Prop :=
  p.outcome = .packet →
    p.out.kind ≠ .none ∧ p.out.length = p.out.payloadLen ∧ p.out.payloadOff.toNat ≤ 138 ∧
      (P.payloadBoundsCheck = true →
        p.out.payloadOff.toNat + p.out.payloadLen.toNat ≤ len)

theorem deliversInside_parseSkip (P : Params) (len : Nat) (r : SkipReason) (out : OutRecord) :
    DeliversInside P len (parseSkip r out) := fun h => by cases h

theorem deliversInside_parseFatal (P : Params) (len : Nat) (r : FatalReason) (out : OutRecord) :
    DeliversInside P len (parseFatal r out) := fun h => by cases h

/-- A 16-bit store of a length that is not negative is at most the length. -/
theorem toNat_ofInt_le {v : Int} (h : 0 ≤ v) : ((BitVec.ofInt 16 v).toNat : Int) ≤ v := by
  obtain ⟨n, rfl⟩ := Int.eq_ofNat_of_zero_le h
  rw [BitVec.ofInt_natCast, BitVec.toNat_ofNat]
  exact_mod_cast Nat.mod_le n (2 ^ 16)

/-- The checks of R141 and R142 are what the claim rests on. -/
theorem deliversInside_parsePayload (P : Params) (len : Nat) {k : Kind} (hk : k ≠ .none)
    {poff : Nat} (hoff : poff ≤ 138) (plen : Int) (out : OutRecord) :
    DeliversInside P len (parsePayload P len k poff plen out) := by
  unfold parsePayload
  split
  · exact deliversInside_parseSkip P len _ out
  · rename_i hneg
    split
    · exact deliversInside_parseSkip P len _ out
    · rename_i hbounds
      have hstored : (BitVec.ofNat 16 poff).toNat = poff := by
        rw [BitVec.toNat_ofNat]
        omega
      refine fun _ => ⟨hk, rfl, hstored.le.trans hoff, fun hcheck => ?_⟩
      have hlen := toNat_ofInt_le (not_lt.1 hneg)
      have hend : (poff : Int) + plen ≤ len := not_lt.1 fun h => hbounds ⟨hcheck, h⟩
      show (BitVec.ofNat 16 poff).toNat + (BitVec.ofInt 16 plen).toNat ≤ len
      omega

/-- A test inside a stage: it is enough that both ways deliver inside the frame. -/
theorem DeliversInside.ite {P : Params} {len : Nat} {c : Prop} [Decidable c] {p q : ParseResult}
    (hp : DeliversInside P len p) (hq : DeliversInside P len q) :
    DeliversInside P len (if c then p else q) := by
  split
  · exact hp
  · exact hq

theorem deliversInside_parseTcp (P : Params) (F : Memory) (len : Nat) {tOff : Nat}
    (h : tOff ≤ 78) (segLen : Int) (out : OutRecord) :
    DeliversInside P len (parseTcp P F len tOff segLen out) := by
  have hbyte : (F.read (tOff + 12)).toNat < 256 := (F.read (tOff + 12)).isLt
  have hpoff : tOff + (F.read (tOff + 12)).toNat / 16 * 4 ≤ 138 := by omega
  exact .ite (deliversInside_parseSkip P len _ out) <|
    .ite (deliversInside_parseSkip P len _ out)
      (deliversInside_parsePayload P len (by decide) hpoff _ out)

theorem deliversInside_parseUdp (P : Params) (F : Memory) (len : Nat) {tOff : Nat}
    (h : tOff ≤ 78) (out : OutRecord) : DeliversInside P len (parseUdp P F len tOff out) :=
  .ite (deliversInside_parseSkip P len _ out)
    (deliversInside_parsePayload P len (by decide) (by omega) _ out)

/-- The tests of R116 in their order; only the two transport stages deliver. -/
theorem deliversInside_parseIpv4 (P : Params) (cfgUdp : Bool) (F : Memory) (len : Nat) {ip : Nat}
    (h : ip ≤ 18) (out : OutRecord) : DeliversInside P len (parseIpv4 P cfgUdp F len ip out) := by
  have hoff : ip + (F.read ip).toNat % 16 * 4 ≤ 78 := by omega
  have hskip := deliversInside_parseSkip P len
  have htcp := deliversInside_parseTcp P F len hoff
  have hudp := deliversInside_parseUdp P F len hoff
  exact .ite (hskip _ _) <| .ite (hskip _ _) <| .ite (deliversInside_parseFatal P len _ _) <|
    .ite (hskip _ _) <| .ite (hskip _ _) <| .ite (htcp _ _) <| .ite (hudp _) <|
    .ite (htcp _ _) (hskip _ _)

/-- The IPv6 stage skips or aborts whatever it reads (R134). -/
theorem deliversInside_parseIpv6 (P : Params) (F : Memory) (len ip : Nat) (out : OutRecord) :
    DeliversInside P len (parseIpv6 P F len ip out) := by
  have hskip := deliversInside_parseSkip P len
  have hfatal := deliversInside_parseFatal P len
  exact .ite (hskip _ _) <| .ite (hfatal _ _) <| .ite (hfatal _ _) <| .ite (hfatal _ _) <|
    .ite (hfatal _ _) (hskip _ _)

theorem deliversInside_parseNetwork (P : Params) (cfgUdp : Bool) (F : Memory) (len : Nat)
    {cur : Nat} (h : cur ≤ 18) (ethertype : Nat) (out : OutRecord) :
    DeliversInside P len (parseNetwork P cfgUdp F len cur ethertype out) :=
  .ite (deliversInside_parseIpv4 P cfgUdp F len h out) <|
    .ite (deliversInside_parseIpv6 P F len cur out) (deliversInside_parseSkip P len _ out)

/-- The network header stands at 14, or at 18 after a tag (R108, R109). -/
theorem deliversInside_parseEth (P : Params) (cfgUdp : Bool) (F : Memory) (len : Nat)
    (out : OutRecord) : DeliversInside P len (parseEth P cfgUdp F len out) := by
  have hskip := deliversInside_parseSkip P len
  have hnetwork {cur : Nat} (h : cur ≤ 18) := deliversInside_parseNetwork P cfgUdp F len h
  exact .ite (hskip _ _) <| .ite (.ite (hskip _ _) (hnetwork (by decide) _ _))
    (hnetwork (by decide) _ _)

/-- Settles O60: the Ethernet stage's bound, at the request's frame length. -/
theorem deliveredPayloadLiesInTheFrame : Obligations.DeliveredPayloadLiesInTheFrame :=
  fun P cfgUdp F r => deliversInside_parseEth P cfgUdp F r.frameLen.toNat _

end Sys2Proof.Machine
end

