-- ==== Sys2Proof/Proofs/MemRead.lean ====
section
/-! PROOFS. A big-endian read as the sum of R36, and the two answers of `MemRead` and `Need`. -/

namespace Sys2Proof.Machine

/-- The value built one byte at a time is R36's sum: each further byte multiplies the bytes before it by
256 and has weight 1 itself. -/
theorem Memory.beValue_eq_sum (m : Memory) (o n : Nat) :
    m.beValue o n =
      ((List.range n).map fun i => (m.read (o + i)).toNat * 256 ^ (n - 1 - i)).sum := by
  induction n with
  | zero => rfl
  | succ n ih =>
    have hshift : ∀ i ∈ List.range n, (m.read (o + i)).toNat * 256 ^ (n + 1 - 1 - i) =
        (m.read (o + i)).toNat * 256 ^ (n - 1 - i) * 256 := by
      intro i hi
      have hin := List.mem_range.1 hi
      rw [show n + 1 - 1 - i = (n - 1 - i) + 1 by omega, pow_succ, mul_assoc]
    rw [Memory.beValue, ih, List.range_succ, List.map_append, List.sum_append,
      List.map_congr_left hshift, List.sum_map_mul_right]
    simp

/-- `MemRead` outside the frame is a fault (R36, I9). -/
theorem memRead_outside {s : State} {o n : Nat} (h : s.frameLen.toNat < o + n)
    (k : Nat → Result) : memRead s o n k = .fault (.memRead o n) :=
  if_neg (Nat.not_le.2 h)

/-- Settles O10: inside the frame the sum, outside it the fault; `Need` decides by the same comparison. -/
theorem memReadIsTheBigEndianSum : Obligations.MemReadIsTheBigEndianSum := by
  intro s o n
  refine ⟨fun k _ hin => ?_, fun k hout => memRead_outside hout k,
    fun k hout => ⟨_, need_short hout k, rfl⟩, fun k hin => need_enough hin k⟩
  rw [memRead_inside hin, Memory.beValue_eq_sum]

end Sys2Proof.Machine
end

