-- ==== Sys2Proof/Proofs/FrameWrites.lean ====
section
/-! PROOFS. What each operation may write, whatever the state: the block's operations nothing outside the
block, the framer's only the framer and, at FR.ISSUE, the frame buffer and the request (R38, R95). -/

namespace Sys2Proof.Machine

/-- Whatever next state `r` answers satisfies `Q`; a fault or a refusal answers none. -/
def EveryNext (Q : State → Prop) (r : Result) : Prop := ∀ t, r = .next t → Q t

/-! ## One rule for each shared operation -/

theorem EveryNext.next {Q : State → Prop} {t : State} (h : Q t) : EveryNext Q (.next t) := by
  rintro _ ⟨⟩
  exact h

theorem EveryNext.refused {Q : State → Prop} (e : Refusal) : EveryNext Q (.refused e) := by
  rintro _ ⟨⟩

theorem EveryNext.withReg {α : Type} {Q : State → Prop} {r : Reg} {v : Option α}
    {k : α → Result} (h : ∀ x, EveryNext Q (k x)) : EveryNext Q (withReg r v k) := by
  intro t ht
  obtain ⟨x, -, hk⟩ := withReg_next ht
  exact h x t hk

theorem EveryNext.memRead {Q : State → Prop} {s : State} {o n : Nat} {k : Nat → Result}
    (h : ∀ v, EveryNext Q (k v)) : EveryNext Q (memRead s o n k) := by
  intro t ht
  obtain ⟨-, hk⟩ := memRead_next ht
  exact h _ t hk

theorem EveryNext.need {Q : State → Prop} {s : State} {o n : Nat} {k : Result}
    (hskip : Q (raiseSkip .frameShort s)) (h : EveryNext Q k) :
    EveryNext Q (need s o n k) := by
  intro t ht
  obtain ⟨-, rfl⟩ | ⟨-, hk⟩ := need_next ht
  · exact hskip
  · exact h t hk

/-! ## What lies outside the block -/

/-- From `s` to `t` nothing changed that is not the block's: the parameters, the inputs `rst` and
`include_udp`, the frame buffer, the framer, the counter of free values. -/
structure OutsideKept (s t : State) : Prop where
  params : t.params = s.params
  rst : t.rst = s.rst
  includeUdp : t.includeUdp = s.includeUdp
  frame : t.frame = s.frame
  fr : t.fr = s.fr
  free : t.free = s.free

theorem OutsideKept.refl (s : State) : OutsideKept s s := ⟨rfl, rfl, rfl, rfl, rfl, rfl⟩

theorem OutsideKept.advance (d : Datapath) (p : Point) (s : State) :
    OutsideKept s (advance d p s) := ⟨rfl, rfl, rfl, rfl, rfl, rfl⟩

theorem OutsideKept.goto (q : Seq) (p : Point) (s : State) : OutsideKept s (goto q p s) :=
  ⟨rfl, rfl, rfl, rfl, rfl, rfl⟩

theorem OutsideKept.setTimestamp (v : Dword) (s : State) : OutsideKept s (setTimestamp v s) :=
  ⟨rfl, rfl, rfl, rfl, rfl, rfl⟩

theorem OutsideKept.acceptState (r : Request) (s : State) : OutsideKept s (acceptState r s) :=
  ⟨rfl, rfl, rfl, rfl, rfl, rfl⟩

/-- A skip may come after the operation has written its registers (R122, R137). -/
theorem OutsideKept.raiseSkip {s t : State} (h : OutsideKept s t) (r : SkipReason) :
    OutsideKept s (raiseSkip r t) := ⟨h.params, h.rst, h.includeUdp, h.frame, h.fr, h.free⟩

/-- So may an abort (R119). -/
theorem OutsideKept.raiseFatal {s t : State} (h : OutsideKept s t) (r : FatalReason) :
    OutsideKept s (raiseFatal r t) := ⟨h.params, h.rst, h.includeUdp, h.frame, h.fr, h.free⟩

theorem OutsideKept.ite {s t u : State} {c : Prop} [Decidable c] (ht : OutsideKept s t)
    (hu : OutsideKept s u) : OutsideKept s (if c then t else u) := by
  split
  · exact ht
  · exact hu

/-! ## The block's operations: first the ways they end, then each of them -/

/-- A check of the block: it skips, perhaps after registers were written, or goes on to the next point. -/
theorem everyNext_skipIf {s t : State} {c : Prop} [Decidable c] (h : OutsideKept s t)
    (r : SkipReason) {d : Datapath} {p : Point} :
    EveryNext (OutsideKept s) (.next (if c then raiseSkip r t else advance d p s)) :=
  .next (.ite (h.raiseSkip r) (.advance d p s))

theorem everyNext_skip (r : SkipReason) (s : State) :
    EveryNext (OutsideKept s) (.next (raiseSkip r s)) := .next ((OutsideKept.refl s).raiseSkip r)

theorem everyNext_fatal (r : FatalReason) (s : State) :
    EveryNext (OutsideKept s) (.next (raiseFatal r s)) := .next ((OutsideKept.refl s).raiseFatal r)

theorem everyNext_goto (q : Seq) (p : Point) (s : State) :
    EveryNext (OutsideKept s) (.next (goto q p s)) := .next (.goto q p s)

theorem everyNext_advance (d : Datapath) (p : Point) (s : State) :
    EveryNext (OutsideKept s) (.next (advance d p s)) := .next (.advance d p s)

/-- `Need` before an operation of the block: its skip keeps what lies outside. -/
theorem everyNext_need {s : State} {o n : Nat} {k : Result}
    (h : EveryNext (OutsideKept s) k) : EveryNext (OutsideKept s) (need s o n k) :=
  .need ((OutsideKept.refl s).raiseSkip _) h

theorem execTxnAccept_outsideKept (s : State) :
    EveryNext (OutsideKept s) (execTxnAccept s) := by
  unfold execTxnAccept
  split
  · exact .refused _
  · split
    · exact .refused _
    · exact .next (.acceptState _ s)

theorem execTxnAck_outsideKept (stop : Bool) (s : State) :
    EveryNext (OutsideKept s) (execTxnAck stop s) := by
  unfold execTxnAck
  split
  · exact .refused _
  · split <;> exact .next ⟨rfl, rfl, rfl, rfl, rfl, rfl⟩

/-- R38 and more: whatever the state, an operation of the block writes nothing outside the block. -/
theorem exec_outsideKept {i : Instr} (hi : isFramerOp i = false) (s : State) :
    EveryNext (OutsideKept s) (exec i s) := by
  cases i with
  | txnAccept => exact execTxnAccept_outsideKept s
  | tsConv => exact .next (.setTimestamp _ s)
  | ethHdr | ethVlan => exact everyNext_need (.memRead fun _ => everyNext_advance _ _ s)
  | ethIpv4 | ethIpv4Inner | ethIpv6 | ethIpv6Inner | ip4Tcp | ip4Udp =>
    exact everyNext_goto _ _ s
  | ethQinq | ethOther | ethOtherInner | ip4Other | ip6Other => exact everyNext_skip _ s
  | ip6Tcp | ip6Hopopt | ip6Routing | ip6Fragment => exact everyNext_fatal _ s
  | ip4Hdr =>
    exact .withReg fun _ => everyNext_need <| .memRead fun _ => .memRead fun _ =>
      everyNext_advance _ _ s
  | ip4Mf =>
    exact .withReg fun _ => .memRead fun _ =>
      .next (.ite ((OutsideKept.advance _ _ s).raiseFatal _) (.advance _ _ s))
  | ip4Ihl => exact .withReg fun _ => everyNext_skipIf (.refl s) _
  | ip4Addr =>
    exact .withReg fun _ => .memRead fun _ => .memRead fun _ =>
      .next ⟨rfl, rfl, rfl, rfl, rfl, rfl⟩
  | ip4SegLen =>
    exact .withReg fun _ => .withReg fun _ => .memRead fun _ =>
      everyNext_skipIf (.advance _ _ s) _
  | ip4TOff => exact .withReg fun _ => .withReg fun _ => everyNext_advance _ _ s
  | ip4UdpOff => exact .next (.ite (.goto _ _ s) ((OutsideKept.refl s).raiseSkip _))
  | ip6Hdr =>
    exact .withReg fun _ => everyNext_need <| .memRead fun _ => everyNext_advance _ _ s
  | tcpHdr => exact .withReg fun _ => everyNext_need <| everyNext_advance _ _ s
  | tcpDoff =>
    exact .withReg fun _ => .memRead fun _ => everyNext_skipIf (.advance _ _ s) _
  | tcpPayload =>
    exact .withReg fun _ => .withReg fun _ => .withReg fun _ => everyNext_advance _ _ s
  | udpHdr =>
    exact .withReg fun _ => everyNext_need <| .memRead fun _ => everyNext_advance _ _ s
  | udpPayload => exact .withReg fun _ => .withReg fun _ => everyNext_advance _ _ s
  | tpNegLen => exact .withReg fun _ => everyNext_skipIf (.refl s) _
  | tpBounds => exact .withReg fun _ => .withReg fun _ => everyNext_skipIf (.refl s) _
  | tpWrite =>
    exact .withReg fun _ => .withReg fun _ => .next ⟨rfl, rfl, rfl, rfl, rfl, rfl⟩
  | txnDeliver => exact .next ⟨rfl, rfl, rfl, rfl, rfl, rfl⟩
  | txnAck stop => exact execTxnAck_outsideKept stop s
  | frHdr | frRead | frType | frExt | frPad | frIssue => cases hi

/-! ## The framer's operations -/

/-- `t` is `s` with another state of the framer. -/
def FramerWritten (s t : State) : Prop := ∃ f, t = setFramer f s

/-- `t` is `s` but for the frame buffer, the request and the framer: what FR.ISSUE owns (R95). -/
def IssueWritten (s t : State) : Prop := ∃ m r f, t = { s with frame := m, req := r, fr := f }

theorem FramerWritten.issueWritten {s t : State} (h : FramerWritten s t) : IssueWritten s t := by
  obtain ⟨f, rfl⟩ := h
  exact ⟨s.frame, s.req, f, rfl⟩

theorem FramerWritten.frame {s t : State} (h : FramerWritten s t) : t.frame = s.frame := by
  obtain ⟨f, rfl⟩ := h
  rfl

/-- Of the framer's operations all but FR.ISSUE write the framer alone. -/
theorem exec_framerWritten {i : Instr} (hi : isFramerOp i = true) (hne : i ≠ .frIssue)
    (s : State) : EveryNext (FramerWritten s) (exec i s) := by
  cases i with
  | frHdr | frRead | frType | frExt | frPad => exact .next ⟨_, rfl⟩
  | frIssue => exact absurd rfl hne
  | _ => cases hi

/-- The first half of FR.ISSUE. -/
theorem frPresent_issueWritten (s : State) : EveryNext (IssueWritten s) (frPresent s) := by
  unfold frPresent
  split
  · exact .refused _
  · exact .next ⟨_, _, _, rfl⟩

/-- The second half of FR.ISSUE: the framer waits or takes the outcome over. -/
theorem frCollect_framerWritten (s : State) : EveryNext (FramerWritten s) (frCollect s) := by
  have waits : EveryNext (FramerWritten s) (.next s) := .next ⟨s.fr, rfl⟩
  unfold frCollect
  split
  · exact waits
  · split
    · exact waits
    · split <;> exact .next ⟨_, rfl⟩
    · exact .next ⟨_, rfl⟩
    · exact .next ⟨_, rfl⟩

theorem execFrIssue_issueWritten (s : State) : EveryNext (IssueWritten s) (execFrIssue s) := by
  unfold execFrIssue
  split
  · exact fun t h => (frCollect_framerWritten s t h).issueWritten
  all_goals exact frPresent_issueWritten s

theorem exec_issueWritten {i : Instr} (hi : isFramerOp i = true) (s : State) :
    EveryNext (IssueWritten s) (exec i s) := by
  by_cases hissue : i = .frIssue
  · subst hissue
    exact execFrIssue_issueWritten s
  · exact fun t h => (exec_framerWritten hi hissue s t h).issueWritten

/-- Settles O50: a block operation keeps all that lies outside the block; a framer operation writes at most
what FR.ISSUE owns, and without FR.ISSUE the framer alone. -/
theorem onlyFrIssueWritesTheFrame : Obligations.OnlyFrIssueWritesTheFrame := by
  intro i s t h
  cases hi : isFramerOp i with
  | false =>
    have kept := exec_outsideKept hi s t h
    exact ⟨fun _ => ⟨kept.frame, fun a => congrArg (Memory.read · a) kept.frame⟩,
      fun _ => kept.fr, nofun, kept.params, kept.includeUdp, kept.rst, kept.free⟩
  | true =>
    have hframe (hne : i ≠ .frIssue) : t.frame = s.frame :=
      (exec_framerWritten hi hne s t h).frame
    obtain ⟨m, r, f, rfl⟩ := exec_issueWritten hi s t h
    exact ⟨fun hne => ⟨hframe hne, fun a => congrArg (Memory.read · a) (hframe hne)⟩,
      nofun, fun _ => rfl, rfl, rfl, rfl, rfl⟩

end Sys2Proof.Machine
end

