-- ==== Sys2Proof/Proofs/Encoding.lean ====
section
/-! PROOFS. The dispatch map read both ways. Each dispatch has one equation for each of its rows, with the
distinctness of I1 to I3 that the order of its tests asks for; and each value of its field has an operation
that encodes back to it (R61 to R66). -/

namespace Sys2Proof

/-! ## Two wire bytes and the 16-bit field they hold -/

/-- A field's wire bytes are the bytes it was assembled from (R9, R33). -/
@[simp] theorem bytesOf16_be16 (hi lo : Byte) : bytesOf16 (be16 hi lo) = [hi, lo] := by
  unfold bytesOf16 be16
  rw [BitVec.extractLsb'_append_eq_left, BitVec.extractLsb'_append_eq_right]

/-- The first wire byte has weight 256 (R36). -/
theorem be16_toNat (hi lo : Byte) : (be16 hi lo).toNat = hi.toNat * 256 + lo.toNat := by
  unfold be16
  rw [BitVec.toNat_append, Nat.shiftLeft_eq, Nat.mul_comm,
    ← Nat.two_pow_add_eq_or_of_lt lo.isLt, Nat.mul_comm]

/-! ## The parameters' distinct values -/

/-- The values of each dispatch are distinct (I1 to I3). -/
structure Params.DispatchDistinct (P : Params) : Prop where
  ipv4_ne_vlan : P.ethertypeIpv4 ≠ P.ethertypeVlan
  ipv6_ne_vlan : P.ethertypeIpv6 ≠ P.ethertypeVlan
  ipv6_ne_ipv4 : P.ethertypeIpv6 ≠ P.ethertypeIpv4
  udp_ne_tcp : P.protoUdp ≠ P.protoTcp
  hopopt_ne_tcp : P.nhHopopt ≠ P.protoTcp
  routing_ne_tcp : P.nhRouting ≠ P.protoTcp
  fragment_ne_tcp : P.nhFragment ≠ P.protoTcp
  routing_ne_hopopt : P.nhRouting ≠ P.nhHopopt
  fragment_ne_hopopt : P.nhFragment ≠ P.nhHopopt
  fragment_ne_routing : P.nhFragment ≠ P.nhRouting

theorem Params.dispatchDistinct_of_wf {P : Params} (h : P.wf = true) : P.DispatchDistinct := by
  simp only [Params.wf, Bool.and_eq_true, bne_iff_ne] at h
  obtain ⟨⟨⟨⟨⟨⟨⟨⟨⟨⟨-, vlan_ipv4⟩, vlan_ipv6⟩, ipv4_ipv6⟩, tcp_udp⟩, hopopt_routing⟩,
    hopopt_fragment⟩, routing_fragment⟩, hopopt_tcp⟩, routing_tcp⟩, fragment_tcp⟩ := h
  exact ⟨vlan_ipv4.symm, vlan_ipv6.symm, ipv4_ipv6.symm, tcp_udp.symm, hopopt_tcp, routing_tcp,
    fragment_tcp, hopopt_routing.symm, hopopt_fragment.symm, routing_fragment.symm⟩

theorem Params.otherEthertype_iff {P : Params} {t : Half} :
    P.otherEthertype t = true ↔
      t ≠ P.ethertypeVlan ∧ t ≠ P.ethertypeIpv4 ∧ t ≠ P.ethertypeIpv6 := by
  simp [Params.otherEthertype, and_assoc]

theorem Params.otherProto_iff {P : Params} {p : Byte} :
    P.otherProto p = true ↔ p ≠ P.protoTcp ∧ p ≠ P.protoUdp := by
  simp [Params.otherProto]

theorem Params.otherNh_iff {P : Params} {nh : Byte} :
    P.otherNh nh = true ↔
      nh ≠ P.protoTcp ∧ nh ≠ P.nhHopopt ∧ nh ≠ P.nhRouting ∧ nh ≠ P.nhFragment := by
  simp [Params.otherNh, and_assoc]

/-! ## The rows of each dispatch -/

section Rows

variable {P : Params}

theorem decode_ethType (cfgUdp : Bool) (t : Half) :
    decode P ⟨.ethType, cfgUdp, bytesOf16 t⟩ = .ok (decodeEthertype P t) := by
  simp [decode, bytesOf16]

theorem decode_ethInner (cfgUdp : Bool) (t : Half) :
    decode P ⟨.ethInner, cfgUdp, bytesOf16 t⟩ = .ok (decodeInnerEthertype P t) := by
  simp [decode, bytesOf16]

theorem decode_ip4Proto (cfgUdp : Bool) (p : Byte) :
    decode P ⟨.ip4Proto, cfgUdp, [p]⟩ = .ok (decodeProto P cfgUdp p) := rfl

theorem decode_ip6Nh (cfgUdp : Bool) (nh : Byte) :
    decode P ⟨.ip6Nh, cfgUdp, [nh]⟩ = .ok (decodeNh P nh) := rfl

theorem decodeEthertype_vlan : decodeEthertype P P.ethertypeVlan = .ethVlan := if_pos rfl

theorem decodeEthertype_ipv4 (d : P.DispatchDistinct) :
    decodeEthertype P P.ethertypeIpv4 = .ethIpv4 := by
  simp [decodeEthertype, d.ipv4_ne_vlan]

theorem decodeEthertype_ipv6 (d : P.DispatchDistinct) :
    decodeEthertype P P.ethertypeIpv6 = .ethIpv6 := by
  simp [decodeEthertype, d.ipv6_ne_vlan, d.ipv6_ne_ipv4]

theorem decodeEthertype_other {t : Half} (h : P.otherEthertype t = true) :
    decodeEthertype P t = .ethOther t := by
  simp [decodeEthertype, Params.otherEthertype_iff.1 h]

theorem decodeInnerEthertype_ipv4 : decodeInnerEthertype P P.ethertypeIpv4 = .ethIpv4Inner :=
  if_pos rfl

theorem decodeInnerEthertype_ipv6 (d : P.DispatchDistinct) :
    decodeInnerEthertype P P.ethertypeIpv6 = .ethIpv6Inner := by
  simp [decodeInnerEthertype, d.ipv6_ne_ipv4]

theorem decodeInnerEthertype_vlan (d : P.DispatchDistinct) :
    decodeInnerEthertype P P.ethertypeVlan = .ethQinq := by
  simp [decodeInnerEthertype, d.ipv4_ne_vlan.symm, d.ipv6_ne_vlan.symm]

theorem decodeInnerEthertype_other {t : Half} (h : P.otherEthertype t = true) :
    decodeInnerEthertype P t = .ethOtherInner t := by
  simp [decodeInnerEthertype, Params.otherEthertype_iff.1 h]

theorem decodeProto_tcp (cfgUdp : Bool) : decodeProto P cfgUdp P.protoTcp = .ip4Tcp := if_pos rfl

/-- The one row that a mode bit selects (R68). -/
theorem decodeProto_udp (d : P.DispatchDistinct) (cfgUdp : Bool) :
    decodeProto P cfgUdp P.protoUdp = if cfgUdp then .ip4Udp else .ip4UdpOff := by
  simp [decodeProto, d.udp_ne_tcp]

theorem decodeProto_other {p : Byte} (h : P.otherProto p = true) (cfgUdp : Bool) :
    decodeProto P cfgUdp p = .ip4Other p := by
  simp [decodeProto, Params.otherProto_iff.1 h]

theorem decodeNh_tcp : decodeNh P P.protoTcp = .ip6Tcp := if_pos rfl

theorem decodeNh_hopopt (d : P.DispatchDistinct) : decodeNh P P.nhHopopt = .ip6Hopopt := by
  simp [decodeNh, d.hopopt_ne_tcp]

theorem decodeNh_routing (d : P.DispatchDistinct) : decodeNh P P.nhRouting = .ip6Routing := by
  simp [decodeNh, d.routing_ne_tcp, d.routing_ne_hopopt]

theorem decodeNh_fragment (d : P.DispatchDistinct) : decodeNh P P.nhFragment = .ip6Fragment := by
  simp [decodeNh, d.fragment_ne_tcp, d.fragment_ne_hopopt, d.fragment_ne_routing]

theorem decodeNh_other {nh : Byte} (h : P.otherNh nh = true) : decodeNh P nh = .ip6Other nh := by
  simp [decodeNh, Params.otherNh_iff.1 h]

end Rows

/-- Settles O44: at a dispatch point the equation of the operation's row; elsewhere the point alone, or the
byte the row fixes, selects the operation. -/
theorem decodeInvertsEncode : Obligations.DecodeInvertsEncode := by
  intro P i hP hi
  have d := Params.dispatchDistinct_of_wf hP
  cases i with
  | ethVlan => rw [encode, decode_ethType, decodeEthertype_vlan]
  | ethIpv4 => rw [encode, decode_ethType, decodeEthertype_ipv4 d]
  | ethIpv6 => rw [encode, decode_ethType, decodeEthertype_ipv6 d]
  | ethOther t => rw [encode, decode_ethType, decodeEthertype_other hi]
  | ethIpv4Inner => rw [encode, decode_ethInner, decodeInnerEthertype_ipv4]
  | ethIpv6Inner => rw [encode, decode_ethInner, decodeInnerEthertype_ipv6 d]
  | ethQinq => rw [encode, decode_ethInner, decodeInnerEthertype_vlan d]
  | ethOtherInner t => rw [encode, decode_ethInner, decodeInnerEthertype_other hi]
  | ip4Tcp => rw [encode, decode_ip4Proto, decodeProto_tcp]
  | ip4Udp | ip4UdpOff => rw [encode, decode_ip4Proto, decodeProto_udp d]; rfl
  | ip4Other p => rw [encode, decode_ip4Proto, decodeProto_other hi]
  | ip6Tcp => rw [encode, decode_ip6Nh, decodeNh_tcp]
  | ip6Hopopt => rw [encode, decode_ip6Nh, decodeNh_hopopt d]
  | ip6Routing => rw [encode, decode_ip6Nh, decodeNh_routing d]
  | ip6Fragment => rw [encode, decode_ip6Nh, decodeNh_fragment d]
  | ip6Other nh => rw [encode, decode_ip6Nh, decodeNh_other hi]
  | tpWrite k => cases k <;> rfl
  | txnAck stop => cases stop <;> rfl
  | txnAccept | tsConv | ethHdr | ip4Hdr | ip4Mf | ip4Ihl | ip4Addr | ip4SegLen | ip4TOff | ip6Hdr
  | tcpHdr | tcpDoff | tcpPayload | udpHdr | udpPayload | tpNegLen | tpBounds | txnDeliver | frHdr
  | frRead | frType | frExt | frPad | frIssue => rfl

/-! ## Every value of a dispatch field -/

/-- `i` is well formed, and its encoding is the point `p` with the selecting bytes `bs`. -/
def EncodesAs (P : Params) (p : Point) (bs : List Byte) (i : Instr) : Prop :=
  i.wf P = true ∧ (encode P i).point = p ∧ (encode P i).bytes = bs

theorem decodeEthertype_encodesAs (P : Params) (t : Half) :
    EncodesAs P .ethType (bytesOf16 t) (decodeEthertype P t) := by
  unfold decodeEthertype
  split_ifs with hvlan hipv4 hipv6
  · exact ⟨rfl, rfl, hvlan ▸ rfl⟩
  · exact ⟨rfl, rfl, hipv4 ▸ rfl⟩
  · exact ⟨rfl, rfl, hipv6 ▸ rfl⟩
  · exact ⟨Params.otherEthertype_iff.2 ⟨hvlan, hipv4, hipv6⟩, rfl, rfl⟩

theorem decodeInnerEthertype_encodesAs (P : Params) (t : Half) :
    EncodesAs P .ethInner (bytesOf16 t) (decodeInnerEthertype P t) := by
  unfold decodeInnerEthertype
  split_ifs with hipv4 hipv6 hvlan
  · exact ⟨rfl, rfl, hipv4 ▸ rfl⟩
  · exact ⟨rfl, rfl, hipv6 ▸ rfl⟩
  · exact ⟨rfl, rfl, hvlan ▸ rfl⟩
  · exact ⟨Params.otherEthertype_iff.2 ⟨hvlan, hipv4, hipv6⟩, rfl, rfl⟩

/-- `cfg_udp` chooses between two operations with one selecting byte (R68). -/
theorem decodeProto_encodesAs (P : Params) (cfgUdp : Bool) (p : Byte) :
    EncodesAs P .ip4Proto [p] (decodeProto P cfgUdp p) := by
  unfold decodeProto
  split_ifs with htcp hudp
  · exact ⟨rfl, rfl, htcp ▸ rfl⟩
  · exact ⟨rfl, rfl, hudp ▸ rfl⟩
  · exact ⟨rfl, rfl, hudp ▸ rfl⟩
  · exact ⟨Params.otherProto_iff.2 ⟨htcp, hudp⟩, rfl, rfl⟩

theorem decodeNh_encodesAs (P : Params) (nh : Byte) :
    EncodesAs P .ip6Nh [nh] (decodeNh P nh) := by
  unfold decodeNh
  split_ifs with htcp hhopopt hrouting hfragment
  · exact ⟨rfl, rfl, htcp ▸ rfl⟩
  · exact ⟨rfl, rfl, hhopopt ▸ rfl⟩
  · exact ⟨rfl, rfl, hrouting ▸ rfl⟩
  · exact ⟨rfl, rfl, hfragment ▸ rfl⟩
  · exact ⟨Params.otherNh_iff.2 ⟨htcp, hhopopt, hrouting, hfragment⟩, rfl, rfl⟩

/-- Settles O43: the decoder answers what the field's dispatch selects, which encodes as the field. -/
theorem everyDispatchValueHasItsOperation : Obligations.EveryDispatchValueHasItsOperation := by
  rintro P ⟨point, cfgUdp, bytes⟩ (⟨hpoint, hlen⟩ | ⟨hpoint, hlen⟩)
  · obtain ⟨hi, lo, rfl⟩ := List.length_eq_two.1 hlen
    rw [← bytesOf16_be16]
    obtain rfl | rfl := hpoint
    · exact ⟨_, decode_ethType cfgUdp _, decodeEthertype_encodesAs P _⟩
    · exact ⟨_, decode_ethInner cfgUdp _, decodeInnerEthertype_encodesAs P _⟩
  · obtain ⟨b, rfl⟩ := List.length_eq_one_iff.1 hlen
    obtain rfl | rfl := hpoint
    · exact ⟨_, decode_ip4Proto cfgUdp b, decodeProto_encodesAs P cfgUdp b⟩
    · exact ⟨_, decode_ip6Nh cfgUdp b, decodeNh_encodesAs P b⟩

/-- Settles O42: each word, read by the decoder at the default parameters. -/
theorem dispatchWordsDecode : Obligations.DispatchWordsDecode :=
  ⟨rfl, rfl, rfl, rfl, rfl, rfl, rfl, rfl, rfl, rfl, rfl, rfl⟩

end Sys2Proof
end

