-- ==== Sys2Proof/Proofs/VlanTag.lean ====
section
/-! PROOFS. A tag before the ethertype, carried through `parse` from the transport stages out to the Ethernet
stage: each stage on the tagged frame answers what it answers 4 bytes earlier on the untagged one, with a
delivered payload 4 bytes later (R69). -/

namespace Sys2Proof.Machine

/-- `p` with the payload of a delivered record 4 bytes later, and nothing else changed (R69). -/
def ParseResult.shifted (p : ParseResult) : ParseResult :=
  { p with out := { p.out with
      payloadOff := p.out.payloadOff + if p.outcome = .packet then 4 else 0 } }

/-- `G` holds from offset 16 on what `F` holds from offset 12 on. -/
def MovedByTag (F G : Memory) : Prop := ∀ a, 12 ≤ a → G.read (a + 4) = F.read a

theorem MovedByTag.beValue {F G : Memory} (h : MovedByTag F G) {o : Nat} (ho : 12 ≤ o) (n : Nat) :
    G.beValue (o + 4) n = F.beValue o n :=
  Memory.beValue_congr fun i _ => by
    rw [Nat.add_right_comm, h (o + i) (by omega)]

@[simp] theorem shifted_parseSkip (r : SkipReason) (out : OutRecord) :
    (parseSkip r out).shifted = parseSkip r out := by
  simp [ParseResult.shifted, parseSkip]

@[simp] theorem shifted_parseFatal (r : FatalReason) (out : OutRecord) :
    (parseFatal r out).shifted = parseFatal r out := by
  simp [ParseResult.shifted, parseFatal]

@[simp] theorem shifted_ite (c : Prop) [Decidable c] (p q : ParseResult) :
    (if c then p else q).shifted = if c then p.shifted else q.shifted :=
  apply_ite ParseResult.shifted c p q

/-- A header 4 bytes later in a frame 4 bytes longer passes the same length check (R37). -/
theorem short_shifted_iff (o n len : Nat) : o + 4 + n > len + 4 ↔ o + n > len := by omega

/-- The only place where the offset itself goes into `out` (R143). -/
theorem parsePayload_shifted (P : Params) (len : Nat) (k : Kind) (poff : Nat) (plen : Int)
    (out : OutRecord) :
    parsePayload P (len + 4) k (poff + 4) plen out = (parsePayload P len k poff plen out).shifted := by
  have hbounds : ((poff + 4 : Nat) : Int) + plen > (len + 4 : Nat) ↔ (poff : Int) + plen > len := by
    omega
  simp only [parsePayload, hbounds, shifted_ite, shifted_parseSkip, BitVec.ofNat_add]
  rfl

theorem parseTcp_shifted (P : Params) {F G : Memory} (hmoved : MovedByTag F G) (len tOff : Nat)
    (segLen : Int) (out : OutRecord) :
    parseTcp P G (len + 4) (tOff + 4) segLen out = (parseTcp P F len tOff segLen out).shifted := by
  have hdoff : G.read (tOff + 4 + 12) = F.read (tOff + 12) := by
    rw [Nat.add_right_comm, hmoved (tOff + 12) (by omega)]
  simp only [parseTcp, short_shifted_iff, hdoff, Nat.add_right_comm tOff 4, parsePayload_shifted,
    shifted_ite, shifted_parseSkip]

theorem parseUdp_shifted (P : Params) {F G : Memory} (hmoved : MovedByTag F G) {tOff : Nat}
    (h : 12 ≤ tOff) (len : Nat) (out : OutRecord) :
    parseUdp P G (len + 4) (tOff + 4) out = (parseUdp P F len tOff out).shifted := by
  have hlength : G.beValue (tOff + 4 + 4) 2 = F.beValue (tOff + 4) 2 :=
    hmoved.beValue (by omega) 2
  simp only [parseUdp, short_shifted_iff, hlength, Nat.add_right_comm tOff 4 8, parsePayload_shifted,
    shifted_ite, shifted_parseSkip]

/-- Every field of the header is read 4 bytes later, and the transport header follows it (R116). -/
theorem parseIpv4_shifted (P : Params) (cfgUdp : Bool) {F G : Memory} (hmoved : MovedByTag F G)
    {ip : Nat} (h : 12 ≤ ip) (len : Nat) (out : OutRecord) :
    parseIpv4 P cfgUdp G (len + 4) (ip + 4) out = (parseIpv4 P cfgUdp F len ip out).shifted := by
  have hbyte (i : Nat) : G.read (ip + 4 + i) = F.read (ip + i) := by
    rw [Nat.add_right_comm, hmoved (ip + i) (by omega)]
  have hfield (i n : Nat) : G.beValue (ip + 4 + i) n = F.beValue (ip + i) n := by
    rw [Nat.add_right_comm, hmoved.beValue (by omega)]
  have htcp (ihl : Nat) (segLen : Int) (out : OutRecord) :
      parseTcp P G (len + 4) (ip + 4 + ihl) segLen out =
        (parseTcp P F len (ip + ihl) segLen out).shifted := by
    rw [Nat.add_right_comm, parseTcp_shifted P hmoved]
  have hudp (ihl : Nat) (out : OutRecord) :
      parseUdp P G (len + 4) (ip + 4 + ihl) out = (parseUdp P F len (ip + ihl) out).shifted := by
    rw [Nat.add_right_comm, parseUdp_shifted P hmoved (by omega)]
  simp only [parseIpv4, short_shifted_iff, hmoved ip h, hbyte, hfield, htcp, hudp, shifted_ite,
    shifted_parseSkip, shifted_parseFatal]

/-- The IPv6 stage ends without a payload (R134), so nothing of it shifts. -/
theorem parseIpv6_shifted (P : Params) {F G : Memory} (hmoved : MovedByTag F G) {ip : Nat}
    (h : 12 ≤ ip) (len : Nat) (out : OutRecord) :
    parseIpv6 P G (len + 4) (ip + 4) out = (parseIpv6 P F len ip out).shifted := by
  have hnh : G.read (ip + 4 + 6) = F.read (ip + 6) := by
    rw [Nat.add_right_comm, hmoved (ip + 6) (by omega)]
  simp only [parseIpv6, short_shifted_iff, hnh, shifted_ite, shifted_parseSkip, shifted_parseFatal]

theorem parseNetwork_shifted (P : Params) (cfgUdp : Bool) {F G : Memory} (hmoved : MovedByTag F G)
    {cur : Nat} (h : 12 ≤ cur) (len ethertype : Nat) (out : OutRecord) :
    parseNetwork P cfgUdp G (len + 4) (cur + 4) ethertype out =
      (parseNetwork P cfgUdp F len cur ethertype out).shifted := by
  simp only [parseNetwork, parseIpv4_shifted P cfgUdp hmoved h, parseIpv6_shifted P hmoved h,
    shifted_ite, shifted_parseSkip]

/-- The tag takes the tagged frame to the ethertype behind it (R109), where the untagged one begins. -/
theorem parseEth_shifted (P : Params) (cfgUdp : Bool) {F G : Memory} (hmoved : MovedByTag F G)
    (htag : G.beValue 12 2 = P.ethertypeVlan.toNat) (huntagged : F.beValue 12 2 ≠ P.ethertypeVlan.toNat)
    {len : Nat} (hlen : 12 ≤ len) (out : OutRecord) :
    parseEth P cfgUdp G (len + 4) out = (parseEth P cfgUdp F len out).shifted := by
  have hlong : ¬ len + 4 < 14 := by omega
  have hshort : len + 4 < 18 ↔ len < 14 := by omega
  have hinner : G.beValue 16 2 = F.beValue 12 2 := hmoved.beValue (le_refl 12) 2
  have hnetwork := parseNetwork_shifted P cfgUdp hmoved (cur := 14) (by decide) len
  simp only [parseEth, hlong, hshort, htag, huntagged, hinner, hnetwork, if_true, if_false,
    shifted_ite, shifted_parseSkip]

/-- Settles O59: the two tag bytes are the tag's ethertype, and the Ethernet stage shifts by it. -/
theorem vlanTagShiftsThePayloadByFour : Obligations.VlanTagShiftsThePayloadByFour := by
  intro P cfgUdp F G r q hlen hq hwhole hfrac hhi hlo hmoved huntagged
  have htag : G.beValue 12 2 = P.ethertypeVlan.toNat := by
    rw [Memory.beValue_two, hhi, hlo, ← be16_toNat, be16_bytesOf16]
  have hparse : parse P cfgUdp G q = (parse P cfgUdp F r).shifted := by
    unfold parse
    rw [hq, hwhole, hfrac, parseEth_shifted P cfgUdp hmoved htag huntagged hlen]
  rw [hparse]
  exact ⟨rfl, rfl, rfl⟩

end Sys2Proof.Machine
end

section
/-! PROOFS. A run that ends a transaction, as a predicate on its first state, and one rule for each shared
operation: each rule takes a check of the machine to the same check of `parse` (R36, R37, R79, R148, R149). -/

namespace Sys2Proof.Machine

/-- From `s` the transaction ends with `p` within `n` steps, and they leave the frame buffer alone. -/
def EndsWithin (n : Nat) (p : ParseResult) (s : State) : Prop :=
  ∃ m t, m ≤ n ∧ run m s = .next t ∧ t.frame = s.frame ∧ endsWith p t

/-- `r` is a next state with the frame buffer `F`, from which the transaction ends with `p` within `n`
steps. -/
def EndsAfter (n : Nat) (p : ParseResult) (F : Memory) (r : Result) : Prop :=
  ∃ t, r = .next t ∧ t.frame = F ∧ EndsWithin n p t

/-- Reset is released and the sequencer stands at point `p` of stage `q`. -/
structure Stands (q : Seq) (p : Point) (s : State) : Prop where
  rst : s.rst = false
  seq : s.seq = q
  point : s.point = p

theorem EndsWithin.mono {m n : Nat} {p : ParseResult} {s : State} (hle : m ≤ n)
    (h : EndsWithin m p s) : EndsWithin n p s := by
  obtain ⟨l, t, hl, hrest⟩ := h
  exact ⟨l, t, hl.trans hle, hrest⟩

theorem EndsWithin.of_step {n : Nat} {p : ParseResult} {s : State}
    (h : EndsAfter n p s.frame (step s)) : EndsWithin (n + 1) p s := by
  obtain ⟨t, hstep, hframe, m, u, hm, hrun, huframe, hend⟩ := h
  exact ⟨m + 1, u, Nat.succ_le_succ hm, (run_succ hstep m).trans hrun, huframe.trans hframe, hend⟩

/-- In a stage the operation at the sequencer's point is the step. -/
theorem Stands.ends {q : Seq} {pt : Point} {n : Nat} {p : ParseResult} {s : State}
    (h : Stands q pt s) (hpt : pointStage pt q = true) (ha : EndsAfter n p s.frame (stepAt pt s)) :
    EndsWithin (n + 1) p s := by
  have hparse : s.parsing = true := parsing_of_pointStage (h.seq.symm ▸ hpt)
  refine .of_step ?_
  rw [step_parsing h.rst hparse, h.point]
  exact ha

theorem Stands.advance {q : Seq} {pt : Point} {s : State} (h : Stands q pt s) (d : Datapath)
    (pt' : Point) : Stands q pt' (advance d pt' s) := ⟨h.rst, h.seq, rfl⟩

theorem Stands.goto {q : Seq} {pt : Point} {s : State} (h : Stands q pt s) (q' : Seq)
    (pt' : Point) : Stands q' pt' (goto q' pt' s) := ⟨h.rst, rfl, rfl⟩

/-! ## One rule for each shared operation -/

section Rules

variable {n : Nat} {p q : ParseResult} {F : Memory} {s t : State}

theorem EndsAfter.mono {m : Nat} {r : Result} (hle : m ≤ n) (h : EndsAfter m p F r) :
    EndsAfter n p F r := by
  obtain ⟨t, hr, hframe, hend⟩ := h
  exact ⟨t, hr, hframe, hend.mono hle⟩

theorem EndsAfter.next (hframe : t.frame = F) (h : EndsWithin n p t) : EndsAfter n p F (.next t) :=
  ⟨t, rfl, hframe, h⟩

theorem EndsAfter.ended (hframe : t.frame = F) (h : endsWith p t) : EndsAfter n p F (.next t) :=
  ⟨t, rfl, hframe, 0, t, Nat.zero_le n, rfl, rfl, h⟩

theorem EndsAfter.skip (r : SkipReason) (hframe : t.frame = F) :
    EndsAfter n (parseSkip r t.out) F (.next (raiseSkip r t)) := .ended hframe ⟨rfl, rfl⟩

theorem EndsAfter.fatal (r : FatalReason) (hframe : t.frame = F) :
    EndsAfter n (parseFatal r t.out) F (.next (raiseFatal r t)) := .ended hframe ⟨rfl, rfl⟩

theorem EndsAfter.withReg {α : Type} {r : Reg} {v : Option α} {x : α} {k : α → Result}
    (hv : v = some x) (h : EndsAfter n p F (k x)) : EndsAfter n p F (withReg r v k) := by
  rw [hv]
  exact h

theorem EndsAfter.memRead {o l : Nat} {k : Nat → Result} (hin : o + l ≤ s.frameLen.toNat)
    (h : EndsAfter n p F (k (s.frame.beValue o l))) : EndsAfter n p F (memRead s o l k) := by
  rw [memRead_inside hin]
  exact h

/-- `Need` is a length check of `parse` (R37). -/
theorem EndsAfter.need {o l : Nat} {k : Result}
    (hshort : s.frameLen.toNat < o + l → p = parseSkip .frameShort s.out)
    (henough : o + l ≤ s.frameLen.toNat → EndsAfter n p s.frame k) :
    EndsAfter n p s.frame (need s o l k) := by
  by_cases hlt : s.frameLen.toNat < o + l
  · rw [need_short hlt, hshort hlt]
    exact .skip .frameShort rfl
  · rw [need_enough (not_lt.1 hlt)]
    exact henough (not_lt.1 hlt)

/-- A check of an operation is the same check of `parse`. -/
theorem EndsAfter.check {c : Prop} [Decidable c] {u : State}
    (hpos : c → EndsAfter n p F (.next t)) (hneg : ¬ c → EndsAfter n q F (.next u)) :
    EndsAfter n (if c then p else q) F (.next (if c then t else u)) := by
  split
  · exact hpos ‹_›
  · exact hneg ‹_›

/-- A test of the decoder is the same test of `parse`. -/
theorem EndsAfter.dispatch {c c' : Prop} [Decidable c] [Decidable c'] {i j : Instr} (hc : c' ↔ c)
    (hpos : c → EndsAfter n p F (exec i s)) (hneg : ¬ c → EndsAfter n q F (exec j s)) :
    EndsAfter n (if c' then p else q) F (exec (if c then i else j) s) := by
  by_cases h : c
  · rw [if_pos h, if_pos (hc.2 h)]
    exact hpos h
  · rw [if_neg h, if_neg fun h' => h (hc.1 h')]
    exact hneg h

end Rules

end Sys2Proof.Machine
end

section
/-! PROOFS. Each point of a stage, from the last to the first: from there the transaction ends with what the
rest of the stage's pseudocode gives (R108 to R110, R116, R128, R136, R139). -/

namespace Sys2Proof.Machine

/-! ## The end that both transport stages share -/

/-- The stage that writes the kind `k` (R143). -/
def stageOf : Transport → Seq
  | .tcp => .tcp
  | .udp => .udp

theorem stepAt_tpWrite {s : State} {k : Transport} (h : s.seq = stageOf k) :
    stepAt .tpWrite s = exec (.tpWrite k) s := by
  cases k with
  | tcp => exact stepAt_tpWrite_tcp h
  | udp => exact stepAt_tpWrite_udp h

/-- `out` as TP.WRITE leaves it, delivered (R143, R75). -/
def parseWrite (k : Kind) (poff : Half) (plen : Int) (out : OutRecord) : ParseResult :=
  ⟨.packet, .none,
    { out with
      kind := k
      payloadOff := poff
      payloadLen := BitVec.ofInt 16 plen
      length := BitVec.ofInt 16 plen }⟩

theorem parsePayload_eq (P : Params) (len : Nat) (k : Kind) (poff : Half) (plen : Int)
    (out : OutRecord) :
    parsePayload P len k poff.toNat plen out =
      if plen < 0 then parseSkip .negativeLength out
      else if P.payloadBoundsCheck ∧ (poff.toNat : Int) + plen > len then
        parseSkip .payloadBounds out
      else parseWrite k poff plen out := by
  simp only [parsePayload, parseWrite, BitVec.ofNat_toNat, BitVec.setWidth_eq]

section Payload

variable {s : State} {k : Transport} {plen : Int} {poff : Half}

theorem deliver_ends (h : Stands (stageOf k) .deliver s) :
    EndsWithin 1 ⟨.packet, .none, s.out⟩ s := by
  refine h.ends (by cases k <;> rfl) ?_
  rw [stepAt_deliver]
  exact .ended rfl ⟨rfl, rfl⟩

theorem tpWrite_ends (h : Stands (stageOf k) .tpWrite s) (hplen : s.dp.plen = some plen)
    (hpoff : s.dp.poff = some poff) :
    EndsWithin 2 (parseWrite (kindOf k) poff plen s.out) s := by
  refine h.ends (by cases k <;> rfl) ?_
  rw [stepAt_tpWrite h.seq]
  exact .withReg hpoff (.withReg hplen (.next rfl (deliver_ends (k := k) ⟨h.rst, h.seq, rfl⟩)))

theorem tpBounds_ends (h : Stands (stageOf k) .tpBounds s) (hplen : s.dp.plen = some plen)
    (hpoff : s.dp.poff = some poff) :
    EndsWithin 3
      (if s.params.payloadBoundsCheck ∧ (poff.toNat : Int) + plen > s.frameLen.toNat then
        parseSkip .payloadBounds s.out
      else parseWrite (kindOf k) poff plen s.out) s := by
  refine h.ends (by cases k <;> rfl) ?_
  rw [stepAt_tpBounds]
  exact .withReg hpoff (.withReg hplen (.check (fun _ => .skip _ rfl) fun _ =>
    .next rfl (tpWrite_ends (h.advance _ _) hplen hpoff)))

theorem tpNegLen_ends (h : Stands (stageOf k) .tpNegLen s) (hplen : s.dp.plen = some plen)
    (hpoff : s.dp.poff = some poff) :
    EndsWithin 4 (parsePayload s.params s.frameLen.toNat (kindOf k) poff.toNat plen s.out) s := by
  refine h.ends (by cases k <;> rfl) ?_
  rw [stepAt_tpNegLen, parsePayload_eq]
  exact .withReg hplen (.check (fun _ => .skip _ rfl) fun _ =>
    .next rfl (tpBounds_ends (h.advance _ _) hplen hpoff))

/-- Both payload operations write their two registers and go on to TP.NEGLEN (R138, R140). -/
theorem payload_ends {pt : Point} (h : Stands (stageOf k) pt s) (plen : Int) {o : Nat}
    (ho : o < 65536) :
    EndsAfter 4 (parsePayload s.params s.frameLen.toNat (kindOf k) o plen s.out) s.frame
      (.next (advance { s.dp with plen := some plen, poff := some (BitVec.ofNat 16 o) }
        .tpNegLen s)) := by
  have hstored : (BitVec.ofNat 16 o).toNat = o := by
    rw [BitVec.toNat_ofNat]
    omega
  have hend := tpNegLen_ends (h.advance { s.dp with
    plen := some plen, poff := some (BitVec.ofNat 16 o) } .tpNegLen) rfl rfl
  rw [hstored] at hend
  exact .next rfl hend

end Payload

/-! ## The TCP stage -/

/-- The TCP header length in bytes, as R136 reads it. -/
theorem thlOf_beValue (F : Memory) (o : Nat) :
    (thlOf (F.beValue o 1)).toNat = (F.read o).toNat / 16 * 4 := by
  have hbyte := (F.read o).isLt
  rw [thlOf_toNat, Memory.beValue_one]
  omega

section Tcp

variable {s : State} {tOff : Half} {segLen : Int}

theorem tcpPayload_ends {thl : BitVec 7} (h : Stands .tcp .tcpPayload s)
    (htOff : s.dp.tOff = some tOff) (h78 : tOff.toNat ≤ 78) (hseg : s.dp.segLen = some segLen)
    (hthl : s.dp.thl = some thl) :
    EndsWithin 5 (parsePayload s.params s.frameLen.toNat .tcp (tOff.toNat + thl.toNat)
      (segLen - thl.toNat) s.out) s := by
  have hlt := thl.isLt
  refine h.ends rfl ?_
  rw [stepAt_tcpPayload]
  exact .withReg hseg (.withReg hthl (.withReg htOff
    (payload_ends (k := .tcp) h _ (by omega))))

theorem tcpDoff_ends (h : Stands .tcp .tcpDoff s) (htOff : s.dp.tOff = some tOff)
    (h78 : tOff.toNat ≤ 78) (hseg : s.dp.segLen = some segLen)
    (hin : tOff.toNat + 20 ≤ s.frameLen.toNat) :
    EndsWithin 6 (parseTcp s.params s.frame s.frameLen.toNat tOff.toNat segLen s.out) s := by
  refine h.ends rfl ?_
  rw [stepAt_tcpDoff, parseTcp, if_neg (not_lt.2 hin), ← thlOf_beValue]
  exact .withReg htOff (.memRead (by omega) (.check (fun _ => .skip _ rfl) fun _ =>
    .next rfl (tcpPayload_ends (h.advance _ _) htOff h78 hseg rfl)))

theorem tcpHdr_ends (h : Stands .tcp .tcpHdr s) (htOff : s.dp.tOff = some tOff)
    (h78 : tOff.toNat ≤ 78) (hseg : s.dp.segLen = some segLen) :
    EndsWithin 7 (parseTcp s.params s.frame s.frameLen.toNat tOff.toNat segLen s.out) s := by
  refine h.ends rfl ?_
  rw [stepAt_tcpHdr]
  exact .withReg htOff (.need (fun hshort => if_pos hshort) fun hin =>
    .next rfl (tcpDoff_ends (h.advance _ _) htOff h78 hseg hin))

end Tcp

/-! ## The UDP stage -/

/-- A 16-bit field holds the two bytes it was read from (R36). -/
theorem ofNat_beValue_two_toNat (F : Memory) (o : Nat) :
    (BitVec.ofNat 16 (F.beValue o 2)).toNat = F.beValue o 2 := by
  have hlt := F.beValue_two_lt o
  rw [BitVec.toNat_ofNat]
  omega

section Udp

variable {s : State} {tOff : Half}

theorem udpPayload_ends {udpLen : Half} {v : Nat} (h : Stands .udp .udpPayload s)
    (htOff : s.dp.tOff = some tOff) (h78 : tOff.toNat ≤ 78) (hlen : s.dp.udpLen = some udpLen)
    (hv : udpLen.toNat = v) :
    EndsWithin 5
      (parsePayload s.params s.frameLen.toNat .udp (tOff.toNat + 8) ((v : Int) - 8) s.out) s := by
  subst hv
  refine h.ends rfl ?_
  rw [stepAt_udpPayload]
  exact .withReg hlen (.withReg htOff (payload_ends (k := .udp) h _ (by omega)))

theorem udpHdr_ends (h : Stands .udp .udpHdr s) (htOff : s.dp.tOff = some tOff)
    (h78 : tOff.toNat ≤ 78) :
    EndsWithin 6 (parseUdp s.params s.frame s.frameLen.toNat tOff.toNat s.out) s := by
  refine h.ends rfl ?_
  rw [stepAt_udpHdr]
  refine .withReg htOff (.need (fun hshort => if_pos hshort) fun hin => .memRead (by omega) ?_)
  rw [parseUdp, if_neg (not_lt.2 hin)]
  exact .next rfl (udpPayload_ends (h.advance _ _) htOff h78 rfl (ofNat_beValue_two_toNat _ _))

end Udp

/-! ## The IPv4 stage -/

/-- A byte read as a number and stored in 8 bits is the byte. -/
theorem ofNat_beValue_one (F : Memory) (o : Nat) :
    BitVec.ofNat 8 (F.beValue o 1) = F.read o := by
  rw [Memory.beValue_one, BitVec.ofNat_toNat, BitVec.setWidth_eq]

/-- The IPv4 header length in bytes, as R116 reads it. -/
theorem ihlBytesOf_beValue (F : Memory) (o : Nat) :
    (ihlBytesOf (F.beValue o 1)).toNat = (F.read o).toNat % 16 * 4 := by
  rw [ihlBytesOf_toNat, Memory.beValue_one]

/-- The more-fragments flag, as R116 reads it. -/
theorem mfOf_beValue (F : Memory) (o : Nat) : mfOf (F.beValue o 1) = (F.read o).getLsbD 5 := by
  rw [mfOf, Memory.beValue_one]
  rfl

/-- A widened address is the number its 4 bytes give (R34, R121). -/
theorem addrOf_beValue (F : Memory) (o : Nat) :
    addrOf (F.beValue o 4) = BitVec.ofNat 64 (F.beValue o 4) := by
  have hlt := F.beValue_four_lt o
  apply BitVec.eq_of_toNat_eq
  rw [addrOf_toNat hlt, BitVec.toNat_ofNat]
  omega

/-- R116 from the protocol dispatch on. -/
def parseProto (P : Params) (cfgUdp : Bool) (F : Memory) (len tOff : Nat) (segLen : Int)
    (proto : Byte) (out : OutRecord) : ParseResult :=
  if proto = P.protoTcp then parseTcp P F len tOff segLen out
  else if cfgUdp then parseUdp P F len tOff out
  else if P.udpOffAsTcp then parseTcp P F len tOff segLen out
  else parseSkip .udpDisabled out

/-- R116 from the segment length on. -/
def parseSegment (P : Params) (cfgUdp : Bool) (F : Memory) (len ip ihl : Nat) (proto : Byte)
    (out : OutRecord) : ParseResult :=
  if (F.beValue (ip + 2) 2 : Int) - ihl < 0 then parseSkip .negativeLength out
  else parseProto P cfgUdp F len (ip + ihl) ((F.beValue (ip + 2) 2 : Int) - ihl) proto out

/-- `out` with the addresses of the IPv4 header at `ip` (R121). -/
def withAddresses (F : Memory) (ip : Nat) (out : OutRecord) : OutRecord :=
  { out with
    srcAddr := BitVec.ofNat 64 (F.beValue (ip + 12) 4)
    dstAddr := BitVec.ofNat 64 (F.beValue (ip + 16) 4) }

/-- The IPv4 stage as its checks and the two tails above. -/
theorem parseIpv4_eq (P : Params) (cfgUdp : Bool) (F : Memory) (len ip : Nat) (out : OutRecord) :
    parseIpv4 P cfgUdp F len ip out =
      if ip + 20 > len then parseSkip .frameShort out
      else if F.read (ip + 9) ≠ P.protoTcp ∧ F.read (ip + 9) ≠ P.protoUdp then
        parseSkip .ipv4Proto out
      else if (F.read (ip + 6)).getLsbD 5 then parseFatal .ipv4Mf out
      else if P.strictHdrLen ∧ (F.read ip).toNat % 16 * 4 < 20 then parseSkip .badHdrLen out
      else parseSegment P cfgUdp F len ip ((F.read ip).toNat % 16 * 4) (F.read (ip + 9))
        (withAddresses F ip out) := rfl

/-- What IP4.HDR leaves for the rest of its stage: its registers, with the header inside the frame and a
protocol that has passed R116's filter. -/
structure Ip4Regs (s : State) (ip : Half) (ihl : BitVec 7) (p : Byte) : Prop where
  cur : s.dp.cur = some ip
  ihlBytes : s.dp.ihlBytes = some ihl
  proto : s.dp.proto = some p
  place : ip.toNat ≤ 18
  inFrame : ip.toNat + 20 ≤ s.frameLen.toNat
  ihl_le : ihl.toNat ≤ 60
  known : ¬ (p ≠ s.params.protoTcp ∧ p ≠ s.params.protoUdp)

section Ipv4

variable {s : State} {ip tOff : Half} {ihl : BitVec 7} {proto : Byte} {segLen : Int}

/-- `goto TCP` with the segment's offset and length (R124, R126). -/
theorem tcp_entered {pt : Point} (h : Stands .ipv4 pt s) (htOff : s.dp.tOff = some tOff)
    (h78 : tOff.toNat ≤ 78) (hseg : s.dp.segLen = some segLen) :
    EndsAfter 7 (parseTcp s.params s.frame s.frameLen.toNat tOff.toNat segLen s.out) s.frame
      (.next (goto .tcp .tcpHdr s)) :=
  .next rfl (tcpHdr_ends (h.goto _ _) htOff h78 hseg)

theorem ip4Proto_ends (h : Stands .ipv4 .ip4Proto s) (hproto : s.dp.proto = some proto)
    (hknown : ¬ (proto ≠ s.params.protoTcp ∧ proto ≠ s.params.protoUdp))
    (htOff : s.dp.tOff = some tOff) (h78 : tOff.toNat ≤ 78) (hseg : s.dp.segLen = some segLen) :
    EndsWithin 8
      (parseProto s.params s.cfgUdp s.frame s.frameLen.toNat tOff.toNat segLen proto s.out) s := by
  have htcp := tcp_entered h htOff h78 hseg
  refine h.ends rfl ?_
  rw [stepAt_ip4Proto hproto, decodeProto]
  refine .dispatch Iff.rfl (fun _ => htcp) fun hne => ?_
  have hudp : proto = s.params.protoUdp := not_not.1 fun hne' => hknown ⟨hne, hne'⟩
  rw [if_pos hudp]
  refine .dispatch Iff.rfl
    (fun _ => .next rfl ((udpHdr_ends (h.goto .udp .udpHdr) htOff h78).mono (by decide))) fun _ => ?_
  exact .check (fun _ => htcp) fun _ => .skip _ rfl

/-- A protocol that is neither TCP nor UDP goes through the dispatch to its skip (R118). -/
theorem ip4Proto_other_ends (h : Stands .ipv4 .ip4Proto s) (hproto : s.dp.proto = some proto)
    (hother : proto ≠ s.params.protoTcp ∧ proto ≠ s.params.protoUdp) :
    EndsWithin 1 (parseSkip .ipv4Proto s.out) s := by
  refine h.ends rfl ?_
  rw [stepAt_ip4Proto hproto, decodeProto, if_neg hother.1, if_neg hother.2]
  exact .skip _ rfl

theorem ip4TOff_ends (h : Stands .ipv4 .ip4TOff s) (hregs : Ip4Regs s ip ihl proto)
    (hseg : s.dp.segLen = some segLen) :
    EndsWithin 9 (parseProto s.params s.cfgUdp s.frame s.frameLen.toNat (ip.toNat + ihl.toNat)
      segLen proto s.out) s := by
  obtain ⟨hcur, hihl, hproto, hplace, -, hle, hknown⟩ := hregs
  have htOff : (BitVec.ofNat 16 (ip.toNat + ihl.toNat)).toNat = ip.toNat + ihl.toNat := by
    rw [BitVec.toNat_ofNat]
    omega
  refine h.ends rfl ?_
  rw [stepAt_ip4TOff, ← htOff]
  exact .withReg hcur (.withReg hihl (.next rfl
    (ip4Proto_ends (h.advance _ _) hproto hknown rfl (by omega) hseg)))

theorem ip4SegLen_ends (h : Stands .ipv4 .ip4SegLen s) (hregs : Ip4Regs s ip ihl proto) :
    EndsWithin 10 (parseSegment s.params s.cfgUdp s.frame s.frameLen.toNat ip.toNat ihl.toNat
      proto s.out) s := by
  have hin := hregs.inFrame
  refine h.ends rfl ?_
  rw [stepAt_ip4SegLen]
  exact .withReg hregs.cur (.withReg hregs.ihlBytes (.memRead (by omega)
    (.check (fun _ => .skip _ rfl) fun _ =>
      .next rfl (ip4TOff_ends (h.advance _ _) { hregs with } rfl))))

theorem ip4Addr_ends (h : Stands .ipv4 .ip4Addr s) (hregs : Ip4Regs s ip ihl proto) :
    EndsWithin 11 (parseSegment s.params s.cfgUdp s.frame s.frameLen.toNat ip.toNat ihl.toNat
      proto (withAddresses s.frame ip.toNat s.out)) s := by
  have hin := hregs.inFrame
  refine h.ends rfl ?_
  rw [stepAt_ip4Addr, withAddresses, ← addrOf_beValue, ← addrOf_beValue]
  exact .withReg hregs.cur (.memRead (by omega) (.memRead (by omega) (.next rfl
    (ip4SegLen_ends ⟨h.rst, h.seq, rfl⟩ { hregs with }))))

theorem ip4Ihl_ends (h : Stands .ipv4 .ip4Ihl s) (hregs : Ip4Regs s ip ihl proto) :
    EndsWithin 12
      (if s.params.strictHdrLen ∧ ihl.toNat < 20 then parseSkip .badHdrLen s.out
      else parseSegment s.params s.cfgUdp s.frame s.frameLen.toNat ip.toNat ihl.toNat proto
        (withAddresses s.frame ip.toNat s.out)) s := by
  refine h.ends rfl ?_
  rw [stepAt_ip4Ihl]
  exact .withReg hregs.ihlBytes (.check (fun _ => .skip _ rfl) fun _ =>
    .next rfl (ip4Addr_ends (h.advance _ _) { hregs with }))

theorem ip4Flags_ends (h : Stands .ipv4 .ip4Flags s) (hregs : Ip4Regs s ip ihl proto) :
    EndsWithin 13
      (if (s.frame.read (ip.toNat + 6)).getLsbD 5 then parseFatal .ipv4Mf s.out
      else if s.params.strictHdrLen ∧ ihl.toNat < 20 then parseSkip .badHdrLen s.out
      else parseSegment s.params s.cfgUdp s.frame s.frameLen.toNat ip.toNat ihl.toNat proto
        (withAddresses s.frame ip.toNat s.out)) s := by
  have hin := hregs.inFrame
  refine h.ends rfl ?_
  rw [stepAt_ip4Flags, ← mfOf_beValue]
  exact .withReg hregs.cur (.memRead (by omega) (.check (fun _ => .fatal _ rfl) fun _ =>
    .next rfl (ip4Ihl_ends (h.advance _ _) { hregs with })))

theorem ip4Hdr_ends (h : Stands .ipv4 .ip4Hdr s) (hcur : s.dp.cur = some ip)
    (hplace : ip.toNat ≤ 18) :
    EndsWithin 14
      (parseIpv4 s.params s.cfgUdp s.frame s.frameLen.toNat ip.toNat s.out) s := by
  refine h.ends rfl ?_
  rw [stepAt_ip4Hdr]
  refine .withReg hcur (.need (fun hshort => if_pos hshort) fun hin =>
    .memRead (by omega) (.memRead (by omega) ?_))
  rw [parseIpv4_eq, if_neg (not_lt.2 hin), ofNat_beValue_one]
  by_cases hother : s.frame.read (ip.toNat + 9) ≠ s.params.protoTcp ∧
      s.frame.read (ip.toNat + 9) ≠ s.params.protoUdp
  · rw [if_pos hother, if_pos (otherProto_iff.2 hother)]
    exact .next rfl ((ip4Proto_other_ends (h.advance _ _) rfl hother).mono (by decide))
  · have hle : (ihlBytesOf (s.frame.beValue ip.toNat 1)).toNat ≤ 60 := by
      rw [ihlBytesOf_toNat]
      omega
    rw [if_neg hother, if_neg (mt otherProto_iff.1 hother), ← ihlBytesOf_beValue]
    exact .next rfl (ip4Flags_ends (h.advance _ _) ⟨hcur, rfl, rfl, hplace, hin, hle, hother⟩)

end Ipv4

/-! ## The IPv6 stage -/

section Ipv6

variable {s : State}

theorem ip6Nh_ends {nh : Byte} (h : Stands .ipv6 .ip6Nh s) (hnh : s.dp.nh = some nh) :
    EndsWithin 1
      (if nh = s.params.protoTcp then parseFatal .ipv6Tcp s.out
      else if nh = s.params.nhHopopt then parseFatal .ipv6Hopopt s.out
      else if nh = s.params.nhRouting then parseFatal .ipv6Routing s.out
      else if nh = s.params.nhFragment then parseFatal .ipv6Fragment s.out
      else parseSkip .ipv6Nh s.out) s := by
  refine h.ends rfl ?_
  rw [stepAt_ip6Nh hnh, decodeNh]
  exact .dispatch Iff.rfl (fun _ => .fatal _ rfl) fun _ =>
    .dispatch Iff.rfl (fun _ => .fatal _ rfl) fun _ =>
    .dispatch Iff.rfl (fun _ => .fatal _ rfl) fun _ =>
    .dispatch Iff.rfl (fun _ => .fatal _ rfl) fun _ => .skip _ rfl

theorem ip6Hdr_ends {ip : Half} (h : Stands .ipv6 .ip6Hdr s) (hcur : s.dp.cur = some ip) :
    EndsWithin 2 (parseIpv6 s.params s.frame s.frameLen.toNat ip.toNat s.out) s := by
  refine h.ends rfl ?_
  rw [stepAt_ip6Hdr]
  refine .withReg hcur (.need (fun hshort => if_pos hshort) fun hin => .memRead (by omega) ?_)
  rw [parseIpv6, if_neg (not_lt.2 hin), ofNat_beValue_one]
  exact .next rfl (ip6Nh_ends (h.advance _ _) rfl)

end Ipv6

/-! ## The Ethernet + VLAN stage -/

section Eth

variable {s : State} {pt : Point} {t ip : Half} {v : Nat}

/-- `goto IPV4` (R111). -/
theorem ipv4_entered (h : Stands .eth pt s) (hcur : s.dp.cur = some ip) (hplace : ip.toNat ≤ 18) :
    EndsAfter 14 (parseIpv4 s.params s.cfgUdp s.frame s.frameLen.toNat ip.toNat s.out) s.frame
      (.next (goto .ipv4 .ip4Hdr s)) :=
  .next rfl (ip4Hdr_ends (h.goto _ _) hcur hplace)

/-- `goto IPV6` (R112). -/
theorem ipv6_entered (h : Stands .eth pt s) (hcur : s.dp.cur = some ip) :
    EndsAfter 14 (parseIpv6 s.params s.frame s.frameLen.toNat ip.toNat s.out) s.frame
      (.next (goto .ipv6 .ip6Hdr s)) :=
  .next rfl ((ip6Hdr_ends (h.goto _ _) hcur).mono (by decide))

theorem ethInner_ends (h : Stands .eth .ethInner s) (ht : s.dp.ethertype = some t)
    (hv : t.toNat = v) (hcur : s.dp.cur = some 18) :
    EndsWithin 15 (parseNetwork s.params s.cfgUdp s.frame s.frameLen.toNat 18 v s.out) s := by
  subst hv
  refine h.ends rfl ?_
  rw [stepAt_ethInner ht, decodeInnerEthertype]
  refine .dispatch BitVec.toNat_inj (fun _ => ipv4_entered h hcur (by decide)) fun _ =>
    .dispatch BitVec.toNat_inj (fun _ => ipv6_entered h hcur) fun _ => ?_
  split
  · exact .skip _ rfl
  · exact .skip _ rfl

/-- ETH.VLAN takes the dispatch to the inner ethertype (R109). -/
theorem ethVlan_ends (h : Stands .eth .ethType s) :
    EndsAfter 15
      (if s.frameLen.toNat < 18 then parseSkip .frameShort s.out
      else parseNetwork s.params s.cfgUdp s.frame s.frameLen.toNat 18 (s.frame.beValue 16 2) s.out)
      s.frame (exec .ethVlan s) := by
  refine .need (fun hshort => if_pos hshort) fun hin => .memRead (by omega) ?_
  rw [if_neg (not_lt.2 hin)]
  exact .next rfl (ethInner_ends (h.advance _ _) rfl (ofNat_beValue_two_toNat _ _) rfl)

theorem ethType_ends (h : Stands .eth .ethType s) (ht : s.dp.ethertype = some t)
    (hv : t.toNat = v) (hcur : s.dp.cur = some 14) :
    EndsWithin 16
      (if v = s.params.ethertypeVlan.toNat then
        if s.frameLen.toNat < 18 then parseSkip .frameShort s.out
        else parseNetwork s.params s.cfgUdp s.frame s.frameLen.toNat 18 (s.frame.beValue 16 2) s.out
      else parseNetwork s.params s.cfgUdp s.frame s.frameLen.toNat 14 v s.out) s := by
  subst hv
  refine h.ends rfl ?_
  rw [stepAt_ethType ht, decodeEthertype]
  exact .dispatch BitVec.toNat_inj (fun _ => ethVlan_ends h) fun _ =>
    .dispatch BitVec.toNat_inj
      (fun _ => (ipv4_entered h hcur (by decide)).mono (by decide)) fun _ =>
    .dispatch BitVec.toNat_inj (fun _ => (ipv6_entered h hcur).mono (by decide)) fun _ =>
    .skip _ rfl

theorem ethHdr_ends (h : Stands .eth .ethHdr s) :
    EndsWithin 17 (parseEth s.params s.cfgUdp s.frame s.frameLen.toNat s.out) s := by
  refine h.ends rfl ?_
  rw [stepAt_ethHdr]
  refine .need (fun hshort => if_pos hshort) fun hin => .memRead (by omega) ?_
  rw [parseEth, if_neg (not_lt.2 hin)]
  exact .next rfl (ethType_ends (h.advance _ _) rfl (ofNat_beValue_two_toNat _ _) rfl)

theorem tsConv_ends (h : Stands .eth .tsConv s) :
    EndsWithin 18 (parseEth s.params s.cfgUdp s.frame s.frameLen.toNat
      { s.out with timestamp := timestampNs s.params.tsTie s.tsWhole s.tsFrac }) s := by
  refine h.ends rfl ?_
  rw [stepAt_tsConv]
  exact .next rfl (ethHdr_ends ⟨h.rst, h.seq, rfl⟩)

end Eth

end Sys2Proof.Machine
end

section
/-! PROOFS. A whole transaction: the operations that begin and end it (R71, R72, R75, R76), and between them
the one function `parse` (R79). -/

namespace Sys2Proof.Machine

/-! ## Acceptance -/

/-- R71's precondition is what TXN.ACCEPT asks for. -/
theorem txnAccept_accepted {s : State} {r : Request} (hreq : s.req = some r)
    (h : acceptRefusal s r = none) : exec .txnAccept s = .next (acceptState r s) := by
  simp only [exec, execTxnAccept, hreq, h]

/-- TS.CONV writes the timestamp of R100. -/
theorem exec_tsConv (s : State) :
    exec .tsConv s = .next (setTimestamp (timestampNs s.params.tsTie s.tsWhole s.tsFrac) s) := rfl

/-- Acceptance and a timestamp written over the cleared record (R71, R72). -/
theorem setTimestamp_acceptState (v : Dword) (r : Request) (s : State) :
    setTimestamp v (acceptState r s) = { s with
      req := none
      cfgUdp := s.includeUdp
      frameLen := r.frameLen
      tsWhole := r.tsWhole
      tsFrac := r.tsFrac
      dp := Datapath.noValue
      out := { OutRecord.zero with timestamp := v }
      seq := .eth
      point := .ethHdr } := rfl

/-- Settles O3: TXN.ACCEPT leaves `acceptState`, and TS.CONV writes its timestamp over it. -/
theorem acceptSamplesInputsAndClearsOutput : Obligations.AcceptSamplesInputsAndClearsOutput := by
  intro s r hreq hseq haborted hstopped hlen
  have haccept := (acceptRefusal_eq_none s r).2 ⟨haborted, hstopped, hseq, hlen⟩
  exact ⟨_, _, txnAccept_accepted hreq haccept, rfl, exec_tsConv _, rfl,
    setTimestamp_acceptState _ r s, rfl⟩

/-- In IDLE a pending request has its turn before the framer (R83, R95). -/
theorem nextPoint_request {s : State} (hseq : s.seq = .idle) (hreq : s.req.isSome = true) :
    nextPoint s = some .accept := by
  simp [nextPoint, hseq, framerCollects, handshakePoint, hreq, Option.isNone_eq_false_iff.2 hreq]

/-- Settles O57: acceptance takes one step, and from TS.CONV the stages, each with its own bound, end with
what the Ethernet stage of `parse` gives for the sampled request. -/
theorem transactionComputesParse : Obligations.TransactionComputesParse := by
  intro s r hrst hseq hreq haborted hstopped hlen
  have haccept := (acceptRefusal_eq_none s r).2 ⟨haborted, hstopped, hseq, hlen⟩
  have hends : EndsWithin 19 (parse s.params s.includeUdp s.frame r) s := by
    refine .of_step ?_
    rw [step_eq_stepAt hrst (nextPoint_request hseq (Option.isSome_of_eq_some hreq)), stepAt_accept,
      txnAccept_accepted hreq haccept]
    exact .next rfl (tsConv_ends (s := acceptState r s) ⟨hrst, rfl, rfl⟩)
  exact hends

/-! ## Delivery and acknowledgement -/

/-- Settles O5: in DELIVER the Sink sees `out` exactly when it has not acknowledged (R24). -/
theorem deliverShowsTheRecordToTheSink : Obligations.DeliverShowsTheRecordToTheSink :=
  fun _ => ⟨_, rfl, fun hack => sinkRecord_valid (viewValid_iff.2 ⟨rfl, hack⟩),
    fun hack => sinkRecord_invalid (viewValid_eq_false.2 (.inr hack)), rfl⟩

theorem exec_txnAck_refused {s : State} (hq : s.seq ≠ .deliver) (stop : Bool) :
    exec (.txnAck stop) s = .refused .ackNotDelivering := if_pos hq

theorem exec_txnAck_resumes {s : State} (hq : s.seq = .deliver) :
    exec (.txnAck false) s = .next { s with ack := none, seq := .idle, point := .accept } :=
  if_neg (not_not.2 hq)

theorem exec_txnAck_stops {s : State} (hq : s.seq = .deliver) :
    exec (.txnAck true) s = .next { s with
      ack := none
      status := { s.status with stopped := true }
      seq := .stopped
      point := .accept } := if_neg (not_not.2 hq)

/-- The Sink's one acknowledgement is held until TXN.ACK takes it. -/
theorem sinkStep_acknowledge {s : State} (hq : s.seq = .deliver) (hack : s.ack = none)
    (stop : Bool) : sinkStep (.acknowledge stop) s = .next { s with ack := some stop } := by
  simp [sinkStep, hq, hack]

/-- A Sink that fails acknowledges with `stop` (R158). -/
theorem sinkStep_fail (s : State) : sinkStep .fail s = sinkStep (.acknowledge true) s := rfl

/-- In DELIVER a held acknowledgement has its turn. -/
theorem step_deliver_ack {s : State} {stop : Bool} (hrst : s.rst = false) (hq : s.seq = .deliver)
    (hack : s.ack = some stop) : step s = exec (.txnAck stop) s := by
  rw [step_eq_stepAt hrst (p := .ack) (by simp [nextPoint, hq, hack]), stepAt_ack hack]

/-- In DELIVER without a handshake the block waits (R76). -/
theorem step_deliver_waits {s : State} (hrst : s.rst = false) (hq : s.seq = .deliver)
    (hack : s.ack = none) (hreq : s.req = none) : step s = .next s := by
  simp [step, hrst, nextPoint, hq, hack, hreq]

/-- Settles O6: TXN.ACK by its stop bit and its guard, the wait, and the failing Sink. -/
theorem ackReturnsToIdleOrStops : Obligations.AckReturnsToIdleOrStops := by
  intro s
  refine ⟨fun hq => ⟨_, exec_txnAck_resumes hq, rfl⟩, fun hq => ⟨_, exec_txnAck_stops hq, rfl⟩,
    fun stop hq => exec_txnAck_refused hq stop, fun hq hrst hack hreq =>
    step_deliver_waits hrst hq hack hreq, fun hq hrst hack => ?_⟩
  have hsink := sinkStep_acknowledge hq hack true
  have hstep := (step_deliver_ack (s := { s with ack := some true }) hrst hq rfl).trans
    (exec_txnAck_stops hq)
  exact ⟨_, _, (sinkStep_fail s).trans hsink, hsink, hstep, rfl, rfl⟩

end Sys2Proof.Machine
end

section
/-! PROOFS. `parse` on two frame buffers that agree below `frame_len`, stage by stage: past its length check
a stage reads only bytes that its check has shown to lie inside the frame (R37, R80). -/

namespace Sys2Proof.Machine

/-- The two buffers hold the same `len` bytes of the frame. -/
def AgreeBelow (len : Nat) (F G : Memory) : Prop := ∀ a < len, F.read a = G.read a

theorem AgreeBelow.beValue {len : Nat} {F G : Memory} (h : AgreeBelow len F G) {o n : Nat}
    (hin : o + n ≤ len) : F.beValue o n = G.beValue o n :=
  Memory.beValue_congr fun i hi => h (o + i) (by omega)

/-- A stage behind a length check: it need agree only where the check passes. -/
theorem ite_short_congr {c : Prop} [Decidable c] {p q q' : ParseResult} (h : ¬ c → q = q') :
    (if c then p else q) = if c then p else q' := by
  split
  · rfl
  · exact h ‹_›

section Stages

variable (P : Params) (cfgUdp : Bool) {F G : Memory} {len : Nat} (hagree : AgreeBelow len F G)
include hagree

theorem parseTcp_congr (tOff : Nat) (segLen : Int) (out : OutRecord) :
    parseTcp P F len tOff segLen out = parseTcp P G len tOff segLen out := by
  refine ite_short_congr fun hin => ?_
  rw [hagree (tOff + 12) (by omega)]

theorem parseUdp_congr (tOff : Nat) (out : OutRecord) :
    parseUdp P F len tOff out = parseUdp P G len tOff out := by
  refine ite_short_congr fun hin => ?_
  rw [hagree.beValue (by omega)]

theorem parseIpv4_congr (ip : Nat) (out : OutRecord) :
    parseIpv4 P cfgUdp F len ip out = parseIpv4 P cfgUdp G len ip out := by
  refine ite_short_congr fun hin => ?_
  have hbyte {i : Nat} (hi : i < 20) : F.read (ip + i) = G.read (ip + i) :=
    hagree (ip + i) (by omega)
  have hfield {i n : Nat} (hi : i + n ≤ 20) : F.beValue (ip + i) n = G.beValue (ip + i) n :=
    hagree.beValue (by omega)
  have hihl : F.read ip = G.read ip := hbyte (i := 0) (by decide)
  simp only [hihl, hbyte (i := 9) (by decide), hbyte (i := 6) (by decide),
    hfield (i := 12) (n := 4) (by decide), hfield (i := 16) (n := 4) (by decide),
    hfield (i := 2) (n := 2) (by decide), parseTcp_congr P hagree, parseUdp_congr P hagree]

theorem parseIpv6_congr (ip : Nat) (out : OutRecord) :
    parseIpv6 P F len ip out = parseIpv6 P G len ip out := by
  refine ite_short_congr fun hin => ?_
  rw [hagree (ip + 6) (by omega)]

theorem parseNetwork_congr (cur ethertype : Nat) (out : OutRecord) :
    parseNetwork P cfgUdp F len cur ethertype out =
      parseNetwork P cfgUdp G len cur ethertype out := by
  simp only [parseNetwork, parseIpv4_congr P cfgUdp hagree, parseIpv6_congr P hagree]

theorem parseEth_congr (out : OutRecord) :
    parseEth P cfgUdp F len out = parseEth P cfgUdp G len out := by
  refine ite_short_congr fun hin => ?_
  rw [hagree.beValue (o := 12) (by omega)]
  simp only [parseNetwork_congr P cfgUdp hagree]
  refine if_congr Iff.rfl (ite_short_congr fun htag => ?_) rfl
  rw [hagree.beValue (by omega)]

end Stages

/-- Settles O58: the Ethernet stage, at the request's frame length. -/
theorem parseReadsOnlyTheFrame : Obligations.ParseReadsOnlyTheFrame :=
  fun P cfgUdp _ _ _ hagree => parseEth_congr P cfgUdp hagree _

end Sys2Proof.Machine
end

section
/-! PROOFS. The record framer's operations, one equation per branch, and what they leave: the ERF header's
fields from its 16 bytes, the payload, the walk over the extension chain, the request and the outcome the
framer takes from the transaction it asked for. -/

namespace Sys2Proof.Machine

/-- The shape of the framer's results: `i` leaves the framer at `f`, in a phase whose operation is `o`. -/
theorem framer_answers {i : Instr} {s : State} {f : Framer} {p : Phase} {o : Option Instr}
    (hexec : exec i s = .next (setFramer { f with phase := p } s))
    (hop : nextFramerOp (setFramer { f with phase := p } s) = o) :
    ∃ t, exec i s = .next t ∧ framerTo f s t ∧ nextFramerOp t = o :=
  ⟨_, hexec, rfl, hop⟩

theorem next_setFramer_congr {s : State} {f g : Framer} (h : f = g) :
    (.next (setFramer f s) : Result) = .next (setFramer g s) := by rw [h]

/-! ## The stream -/

theorem Framer.avail_eq_zero_iff {f : Framer} (hpos : f.pos ≤ f.stream.length) :
    f.avail = 0 ↔ f.stream.length = f.pos := by
  unfold Framer.avail
  omega

theorem Framer.avail_lt_iff {f : Framer} (hpos : f.pos ≤ f.stream.length) {n : Nat} :
    f.avail < n ↔ f.stream.length < f.pos + n := by
  unfold Framer.avail
  omega

/-- Byte `i` of the stream from the framer's position on. -/
def Framer.byteAt (f : Framer) (i : Nat) : Byte := f.stream.getD (f.pos + i) 0

theorem Framer.length_nextBytes {f : Framer} {n : Nat} (h : f.pos + n ≤ f.stream.length) :
    (f.nextBytes n).length = n := by
  rw [Framer.nextBytes, List.length_take, List.length_drop]
  omega

theorem Framer.getD_nextBytes (f : Framer) {i n : Nat} (h : i < n) :
    (f.nextBytes n).getD i 0 = f.byteAt i := by
  simp [Framer.nextBytes, Framer.byteAt, h]

/-- A field of the next `n` bytes: its `len` bytes from offset `o` on. -/
theorem Framer.nextBytes_field {f : Framer} {n : Nat} (hin : f.pos + n ≤ f.stream.length) (o len : Nat)
    (h : o + len ≤ n) :
    ((f.nextBytes n).drop o).take len = (List.range len).map fun i => f.byteAt (o + i) := by
  have hlen := Framer.length_nextBytes hin
  refine List.ext_getElem (by simp [hlen]; omega) fun i hi _ => ?_
  have hi' : i < len := by simp only [List.length_take] at hi; omega
  simp [← Framer.getD_nextBytes f (show o + i < n by omega),
    List.getElem?_eq_getElem (show o + i < (f.nextBytes n).length by omega)]

/-! ## FR.HDR -/

theorem byte_of_beBytes (a : Byte) : BitVec.ofNat 8 (beBytes [a]) = a := by
  simp [beBytes]

theorem half_of_beBytes (a b : Byte) :
    (BitVec.ofNat 16 (beBytes [a, b])).toNat = a.toNat * 256 + b.toNat := by
  have ha := a.isLt
  have hb := b.isLt
  simp only [beBytes, List.foldl, BitVec.toNat_ofNat]
  omega

theorem word_of_beBytes (a b c d : Byte) :
    (BitVec.ofNat 32 (beBytes [a, b, c, d])).toNat =
      a.toNat * 16777216 + b.toNat * 65536 + c.toNat * 256 + d.toNat := by
  have ha := a.isLt
  have hb := b.isLt
  have hc := c.isLt
  have hd := d.isLt
  simp only [beBytes, List.foldl, BitVec.toNat_ofNat]
  omega

/-- The fields of a whole header, by the stream's bytes (R85). -/
theorem readHeader_nextBytes (o : ByteOrder) {f : Framer} (hin : f.pos + 16 ≤ f.stream.length) :
    readHeader o (f.nextBytes 16) f = { f with
      frac := BitVec.ofNat 32 (orderedBytes o [f.byteAt 0, f.byteAt 1, f.byteAt 2, f.byteAt 3])
      whole := BitVec.ofNat 32 (orderedBytes o [f.byteAt 4, f.byteAt 5, f.byteAt 6, f.byteAt 7])
      typeByte := f.byteAt 8
      tlen := BitVec.ofNat 16 (beBytes [f.byteAt 10, f.byteAt 11])
      wlen := BitVec.ofNat 16 (beBytes [f.byteAt 14, f.byteAt 15]) } := by
  have hfrac : (f.nextBytes 16).take 4 = [f.byteAt 0, f.byteAt 1, f.byteAt 2, f.byteAt 3] :=
    Framer.nextBytes_field hin 0 4 (by decide)
  have hwhole : ((f.nextBytes 16).drop 4).take 4 =
      [f.byteAt 4, f.byteAt 5, f.byteAt 6, f.byteAt 7] :=
    Framer.nextBytes_field hin 4 4 (by decide)
  have htype : ((f.nextBytes 16).drop 8).take 1 = [f.byteAt 8] :=
    Framer.nextBytes_field hin 8 1 (by decide)
  have htlen : ((f.nextBytes 16).drop 10).take 2 = [f.byteAt 10, f.byteAt 11] :=
    Framer.nextBytes_field hin 10 2 (by decide)
  have hwlen : ((f.nextBytes 16).drop 14).take 2 = [f.byteAt 14, f.byteAt 15] :=
    Framer.nextBytes_field hin 14 2 (by decide)
  simp only [readHeader, hfrac, hwhole, htype, htlen, hwlen, byte_of_beBytes]

theorem exec_frHdr_ended {s : State} (hend : s.fr.avail = 0) :
    exec .frHdr s = .next (setFramer (endStream s.fr) s) :=
  next_setFramer_congr (if_pos hend)

theorem exec_frHdr_cut {s : State} (hsome : s.fr.avail ≠ 0) (hcut : s.fr.avail < 16) :
    exec .frHdr s = .next (setFramer (truncate s.fr) s) :=
  next_setFramer_congr ((if_neg hsome).trans (if_pos hcut))

theorem exec_frHdr_reads {s : State} (hin : s.fr.pos + 16 ≤ s.fr.stream.length) :
    exec .frHdr s = .next (setFramer
      { readHeader s.params.erfTsOrder (s.fr.nextBytes 16) s.fr with
        pos := s.fr.pos + 16, phase := .read } s) := by
  have havail : ¬ s.fr.avail < 16 := by unfold Framer.avail; omega
  exact next_setFramer_congr ((if_neg (by omega)).trans (if_neg havail))

/-- Settles O34: the three places the stream can end, and the header's fields in either byte order. -/
theorem frHdrReadsTheRecordHeader : Obligations.FrHdrReadsTheRecordHeader := by
  intro s hpos
  refine ⟨fun hend => framer_answers (exec_frHdr_ended ?_) rfl, fun hsome hcut =>
    framer_answers (exec_frHdr_cut ?_ ?_) rfl, fun hin => ?_⟩
  · exact (Framer.avail_eq_zero_iff hpos).2 hend
  · exact mt (Framer.avail_eq_zero_iff hpos).1 (by omega)
  · exact (Framer.avail_lt_iff hpos).2 hcut
  · have hexec := exec_frHdr_reads hin
    rw [readHeader_nextBytes _ hin] at hexec
    refine ⟨_, _, _, _, _, hexec, rfl, rfl, fun hbig => ?_, fun hlittle => ?_,
      half_of_beBytes _ _, half_of_beBytes _ _⟩
    · rw [hbig]
      exact ⟨word_of_beBytes _ _ _ _, word_of_beBytes _ _ _ _⟩
    · rw [hlittle]
      exact ⟨word_of_beBytes _ _ _ _, word_of_beBytes _ _ _ _⟩

/-! ## FR.READ -/

theorem exec_frRead_cut {s : State}
    (hcut : s.fr.tlen.toNat < 16 ∨ s.fr.avail < s.fr.tlen.toNat - 16) :
    exec .frRead s = .next (setFramer (truncate s.fr) s) := by
  refine next_setFramer_congr ?_
  by_cases hshort : s.fr.tlen.toNat < 16
  · exact if_pos hshort
  · exact (if_neg hshort).trans (if_pos (hcut.resolve_left hshort))

theorem exec_frRead_takes {s : State} (htlen : 16 ≤ s.fr.tlen.toNat)
    (havail : ¬ s.fr.avail < s.fr.tlen.toNat - 16) :
    exec .frRead s = .next (setFramer
      { s.fr with
        record := s.fr.nextBytes (s.fr.tlen.toNat - 16)
        pos := s.fr.pos + (s.fr.tlen.toNat - 16)
        count := s.fr.count + 1
        phase := .type } s) :=
  next_setFramer_congr ((if_neg (Nat.not_lt.2 htlen)).trans (if_neg havail))

/-- Settles O35: a record that is cut, and one whose payload the stream holds. -/
theorem frReadTakesThePayload : Obligations.FrReadTakesThePayload := by
  intro s hpos
  refine ⟨fun hcut => framer_answers (exec_frRead_cut ?_) rfl, fun htlen hin => ?_⟩
  · exact hcut.imp_right (Framer.avail_lt_iff hpos).2
  · have havail := mt (Framer.avail_lt_iff hpos).1 (Nat.not_lt.2 hin)
    have hlen := Framer.length_nextBytes hin
    exact ⟨_, _, exec_frRead_takes htlen havail, rfl, rfl, hlen,
      fun i hi => Framer.getD_nextBytes s.fr (hlen ▸ hi)⟩

/-! ## FR.TYPE -/

/-- The record type is the low 7 bits of the type byte, whatever its extension flag (R49). -/
theorem Framer.recType_eq_two_iff (f : Framer) : f.recType = 2 ↔ f.typeByte.toNat % 128 = 2 := by
  rw [← BitVec.toNat_inj, Framer.recType, BitVec.extractLsb'_toNat]
  simp

theorem exec_frType_ethernet {s : State} (h : s.fr.recType = 2) :
    exec .frType s = .next (setFramer { s.fr with phase := .ext } s) :=
  next_setFramer_congr (if_pos h)

theorem exec_frType_other {s : State} (h : s.fr.recType ≠ 2) :
    exec .frType s = .next (setFramer (skipRecord .skipRecordType s.fr) s) :=
  next_setFramer_congr (if_neg h)

/-- Settles O36: FR.TYPE by the record type; the flag then selects at the next point. -/
theorem frTypePassesOnlyEthernet : Obligations.FrTypePassesOnlyEthernet := fun s =>
  ⟨fun h => framer_answers (exec_frType_other (mt s.fr.recType_eq_two_iff.1 h)) rfl,
    fun h => framer_answers (exec_frType_ethernet (s.fr.recType_eq_two_iff.2 h)) rfl⟩

/-! ## FR.EXT -/

/-- The walk over the chain, one 8-byte block at a time. -/
theorem extChain_eq : ∀ bs : List Byte, extChain bs =
    if 8 ≤ bs.length then
      if (bs.getD 0 0).getLsbD 7 then (extChain (bs.drop 8)).map (· + 1) else some 1
    else none
  | _ :: _ :: _ :: _ :: _ :: _ :: _ :: _ :: _ => by simp [extChain]
  | [] | [_] | [_, _] | [_, _, _] | [_, _, _, _] | [_, _, _, _, _] | [_, _, _, _, _, _]
  | [_, _, _, _, _, _, _] => rfl

/-- Byte `8 * j` behind the first block is byte `8 * (j + 1)` of the record. -/
theorem getD_drop_block (bs : List Byte) (j : Nat) :
    (bs.drop 8).getD (8 * j) 0 = bs.getD (8 * (j + 1)) 0 := by
  simp [List.getElem?_drop, Nat.mul_add, Nat.add_comm]

/-- The chain ends with the first block whose continuation bit is clear (R92). -/
theorem extChain_eq_some {k : Nat} {bs : List Byte} (hlen : 8 * (k + 1) ≤ bs.length)
    (hset : ∀ j < k, (bs.getD (8 * j) 0).getLsbD 7 = true)
    (hclear : (bs.getD (8 * k) 0).getLsbD 7 = false) : extChain bs = some (k + 1) := by
  induction k generalizing bs with
  | zero =>
    rw [Nat.mul_zero] at hclear
    rw [extChain_eq, if_pos (by omega), hclear]
    rfl
  | succ k ih =>
    have hfirst : (bs.getD 0 0).getLsbD 7 = true := hset 0 (by omega)
    have hrest : extChain (bs.drop 8) = some (k + 1) := by
      refine ih (by rw [List.length_drop]; omega) (fun j hj => ?_) ?_
      · rw [getD_drop_block]
        exact hset (j + 1) (by omega)
      · rw [getD_drop_block]
        exact hclear
    rw [extChain_eq, if_pos (by omega), hfirst, hrest]
    rfl

/-- A record whose whole blocks all have the continuation bit set ends inside the chain (R93). -/
theorem extChain_eq_none {bs : List Byte}
    (hset : ∀ k, 8 * (k + 1) ≤ bs.length → (bs.getD (8 * k) 0).getLsbD 7 = true) :
    extChain bs = none := by
  rw [extChain_eq]
  split
  · rename_i hlen
    have hrest : extChain (bs.drop 8) = none := by
      refine extChain_eq_none fun k hk => ?_
      rw [List.length_drop] at hk
      rw [getD_drop_block]
      exact hset (k + 1) (by omega)
    rw [if_pos (hset 0 hlen), hrest]
    rfl
  · rfl
termination_by bs.length

theorem exec_frExt_chain {s : State} (hext : s.fr.typeByte.getLsbD 7 = true) {k : Nat}
    (hchain : extChain s.fr.record = some k) :
    exec .frExt s = .next (setFramer { s.fr with blocks := k, phase := .pad } s) := by
  refine next_setFramer_congr ((if_pos hext).trans ?_)
  rw [hchain]

theorem exec_frExt_short {s : State} (hext : s.fr.typeByte.getLsbD 7 = true)
    (hchain : extChain s.fr.record = none) :
    exec .frExt s = .next (setFramer
      (skipRecord .skipExtShort { s.fr with blocks := s.fr.record.length / 8 }) s) := by
  refine next_setFramer_congr ((if_pos hext).trans ?_)
  rw [hchain]
  rfl

theorem exec_frExt_none {s : State} (hext : s.fr.typeByte.getLsbD 7 = false) :
    exec .frExt s = .next (setFramer { s.fr with blocks := 0, phase := .pad } s) :=
  next_setFramer_congr (if_neg (Bool.eq_false_iff.1 hext))

/-- Settles O37: a chain that ends, a record that ends inside it, and no chain. -/
theorem frExtWalksTheChain : Obligations.FrExtWalksTheChain := fun _ =>
  ⟨fun hext _ hlen hset hclear =>
      framer_answers (exec_frExt_chain hext (extChain_eq_some hlen hset hclear)) rfl,
    fun hext hset => framer_answers (exec_frExt_short hext (extChain_eq_none hset)) rfl,
    fun hext => framer_answers (exec_frExt_none hext) rfl⟩

/-! ## FR.PAD -/

section Pad

variable {s : State} {k : Nat} (hk : k = if s.fr.typeByte.getLsbD 7 then s.fr.blocks else 0)
include hk

theorem exec_frPad_short (hlen : s.fr.record.length < 8 * k + 2) :
    exec .frPad s = .next (setFramer
      (skipRecord .skipExtShort { s.fr with blocks := k, base := 8 * k + 2 }) s) := by
  subst hk
  exact next_setFramer_congr (if_pos hlen)

theorem exec_frPad_pads (hlen : 8 * k + 2 ≤ s.fr.record.length) :
    exec .frPad s = .next (setFramer
      { s.fr with blocks := k, base := 8 * k + 2, phase := .issue } s) := by
  subst hk
  exact next_setFramer_congr (if_neg (Nat.not_lt.2 hlen))

end Pad

/-- At its point FR.ISSUE is selected by an Ethernet record alone (R60). -/
theorem nextFramerOp_issue {s : State} (hp : s.fr.phase = .issue) (h : s.fr.recType = 2) :
    nextFramerOp s = some .frIssue := by
  unfold Framer.recType at h
  simp [nextFramerOp, hp, Phase.point, opAt, fetch, selectorBytes, decode, h]

/-- Settles O38: a base past the record, and one inside it. -/
theorem frPadSkipsTwoBytes : Obligations.FrPadSkipsTwoBytes := fun s _ hk =>
  ⟨fun hlen => framer_answers (exec_frPad_short hk hlen) rfl, fun hlen =>
    ⟨_, exec_frPad_pads hk hlen, rfl, fun htype =>
      nextFramerOp_issue rfl (s.fr.recType_eq_two_iff.2 htype)⟩⟩

/-! ## FR.ISSUE -/

theorem exec_frIssue_of_issue {s : State} (hp : s.fr.phase = .issue) :
    exec .frIssue s = frPresent s := by
  simp only [exec, execFrIssue, hp]

theorem exec_frIssue_of_wait {s : State} (hp : s.fr.phase = .wait) :
    exec .frIssue s = frCollect s := by
  simp only [exec, execFrIssue, hp]

theorem frPresent_refused {s : State} (h : s.bufferTaken = true) :
    frPresent s = .refused .bufferOwned := if_pos h

theorem frPresent_presents {s : State} (h : s.bufferTaken = false) :
    frPresent s = .next { s with
      frame := s.frame.writeBytes 0 (s.fr.record.drop s.fr.base)
      req := some ⟨BitVec.ofNat 16 (s.fr.record.length - s.fr.base), s.fr.whole, s.fr.frac⟩
      fr := { s.fr with phase := .wait } } := if_neg (Bool.eq_false_iff.1 h)

/-- Bytes written from offset 0 on: a read below their end finds them, one past it what was there. -/
theorem Memory.read_writeBytes_zero {m : Memory} (hm : m.wf = true) {bs : List Byte}
    (hlen : bs.length ≤ 65536) (a : Nat) :
    (m.writeBytes 0 bs).read a = if a < bs.length then bs.getD a 0 else m.read a := by
  simpa using Memory.read_writeBytes hm (a := 0) (by omega) a

/-- Settles O39: the frame is the record from `base` on, written from offset 0 on. -/
theorem frIssuePresentsTheFrame : Obligations.FrIssuePresentsTheFrame := by
  intro s hframe hphase hbase hlen
  rw [exec_frIssue_of_issue hphase]
  refine ⟨fun hbusy hreq => ?_, fun htaken => frPresent_refused (bufferTaken_eq_true.2 htaken)⟩
  have hdrop : (s.fr.record.drop s.fr.base).length = s.fr.record.length - s.fr.base :=
    List.length_drop
  have hframeLen : (BitVec.ofNat 16 (s.fr.record.length - s.fr.base)).toNat =
      s.fr.record.length - s.fr.base := by
    rw [BitVec.toNat_ofNat]
    omega
  have hread := Memory.read_writeBytes_zero hframe (bs := s.fr.record.drop s.fr.base) (by omega)
  refine ⟨_, _, frPresent_presents (bufferTaken_eq_false.2 ⟨hbusy, hreq⟩), rfl, hframeLen, rfl, rfl,
    fun a ha => ?_, fun a ha => ?_, fun a => Nat.add_assoc 16 s.fr.base a⟩
  · rw [hframeLen] at ha
    rw [hread, if_pos (by omega)]
    simp [Framer.bufferOffset, List.getElem?_drop]
  · rw [hframeLen] at ha
    rw [hread, if_neg (by omega)]

theorem frCollect_waits {s : State} (h : s.bufferTaken = true) : frCollect s = .next s := if_pos h

section Ended

variable {s : State} (h : s.bufferTaken = false)
include h

theorem frCollect_none (ho : s.status.outcome = .none) : frCollect s = .next s := by
  simp [frCollect, h, ho]

theorem frCollect_packet (ho : s.status.outcome = .packet) (hstop : s.status.stopped = false) :
    frCollect s = .next (setFramer { s.fr with outcome := .packet s.out, phase := .hdr } s) := by
  simp [frCollect, h, ho, hstop]

theorem frCollect_stopped (ho : s.status.outcome = .packet) (hstop : s.status.stopped = true) :
    frCollect s = .next (setFramer
      { s.fr with outcome := .packet s.out, run := .stopped, phase := .done } s) := by
  simp [frCollect, h, ho, hstop]

theorem frCollect_skip (ho : s.status.outcome = .skip) :
    frCollect s = .next (setFramer
      { s.fr with outcome := .skipped s.status.reason, phase := .hdr } s) := by
  simp [frCollect, h, ho]

theorem frCollect_fatal (ho : s.status.outcome = .fatal) :
    frCollect s = .next (setFramer
      { s.fr with run := .unsupported s.status.reason, phase := .done } s) := by
  simp [frCollect, h, ho]

end Ended

/-- Settles O40: the wait while the buffer is given away, and each outcome of the transaction. -/
theorem frIssueMapsTheOutcome : Obligations.FrIssueMapsTheOutcome := by
  intro s hphase
  have hexec := exec_frIssue_of_wait hphase
  refine ⟨fun htaken => hexec.trans (frCollect_waits (bufferTaken_eq_true.2 htaken)),
    fun hbusy hreq => ?_⟩
  have hfree := bufferTaken_eq_false.2 ⟨hbusy, hreq⟩
  exact ⟨fun ho => hexec.trans (frCollect_none hfree ho),
    fun ho hstop => framer_answers (hexec.trans (frCollect_packet hfree ho hstop)) rfl,
    fun ho hstop => framer_answers (hexec.trans (frCollect_stopped hfree ho hstop)) rfl,
    fun ho => framer_answers (hexec.trans (frCollect_skip hfree ho)) rfl,
    fun ho => framer_answers (hexec.trans (frCollect_fatal hfree ho)) rfl⟩

end Sys2Proof.Machine
end

section
/-! PROOFS. The timestamp converter: rounding to nearest between its two tie settings, the ties, the range, and
binary64's product, which is exact for every fraction (R100 to R105). -/

namespace Sys2Proof.Machine

/-! ## Rounding to nearest -/

/-- Half up, as one expression (R101). -/
theorem fracNs_halfUp (frac : Nat) :
    fracNs .halfUp frac = (frac * 1000000000 + 2147483648) / 4294967296 := by
  rcases Nat.lt_trichotomy (frac * 1000000000 % 4294967296) 2147483648 with hbelow | htie | habove
  · rw [fracNs_below hbelow]
    generalize frac * 1000000000 = p at hbelow ⊢
    omega
  · rw [fracNs_tie_halfUp htie]
    generalize frac * 1000000000 = p at htie ⊢
    omega
  · rw [fracNs_above habove]
    generalize frac * 1000000000 = p at habove ⊢
    omega

/-- The tie settings differ at a tie alone (R102). -/
theorem fracNs_eq_halfUp_of_not_tie (tie : TsTie) {frac : Nat}
    (h : frac * 1000000000 % 4294967296 ≠ 2147483648) : fracNs tie frac = fracNs .halfUp frac := by
  rcases Nat.lt_or_gt_of_ne h with hbelow | habove
  · rw [fracNs_below hbelow, fracNs_below hbelow]
  · rw [fracNs_above habove, fracNs_above habove]

/-- At a tie, half up is one above half even where the quotient is even, and equal to it where odd. -/
theorem fracNs_halfUp_of_tie {frac : Nat} (h : frac * 1000000000 % 4294967296 = 2147483648) :
    fracNs .halfUp frac =
      fracNs .halfEven frac + (1 - frac * 1000000000 / 4294967296 % 2) := by
  rw [fracNs_tie_halfUp h, fracNs_tie_halfEven h]
  generalize frac * 1000000000 / 4294967296 = q
  omega

/-- No setting rounds above half up. -/
theorem fracNs_le_halfUp (tie : TsTie) (frac : Nat) : fracNs tie frac ≤ fracNs .halfUp frac := by
  by_cases h : frac * 1000000000 % 4294967296 = 2147483648
  · cases tie with
    | halfUp => exact Nat.le_refl _
    | halfEven =>
      rw [fracNs_halfUp_of_tie h]
      exact Nat.le_add_right _ _
  · exact Nat.le_of_eq (fracNs_eq_halfUp_of_not_tie tie h)

/-! ## The range -/

theorem fracNs_le (tie : TsTie) {frac : Nat} (h : frac < 4294967296) :
    fracNs tie frac ≤ 1000000000 := by
  have hle := fracNs_le_halfUp tie frac
  rw [fracNs_halfUp] at hle
  omega

/-- The two fractions from which the rounding carries into the seconds lie above every tie (R104). -/
theorem fracNs_of_carry (tie : TsTie) {frac : Nat} (hlow : 4294967294 ≤ frac)
    (h : frac < 4294967296) : fracNs tie frac = 1000000000 := by
  obtain rfl | rfl : frac = 4294967294 ∨ frac = 4294967295 := by omega
  · exact fracNs_above (by decide)
  · exact fracNs_above (by decide)

theorem fracNs_lt_of_no_carry (tie : TsTie) {frac : Nat} (h : frac < 4294967294) :
    fracNs tie frac < 1000000000 := by
  have hle := fracNs_le_halfUp tie frac
  rw [fracNs_halfUp] at hle
  omega

theorem carries_iff (frac : Word) :
    frac = 0xFFFFFFFE ∨ frac = 0xFFFFFFFF ↔ 4294967294 ≤ frac.toNat := by
  bv_omega

theorem fracNs_eq_carry_iff (tie : TsTie) (frac : Word) :
    fracNs tie frac.toNat = 1000000000 ↔ frac = 0xFFFFFFFE ∨ frac = 0xFFFFFFFF := by
  rw [carries_iff]
  constructor
  · intro hcarry
    by_contra hlow
    exact Nat.ne_of_lt (fracNs_lt_of_no_carry tie (Nat.not_le.1 hlow)) hcarry
  · exact fun hlow => fracNs_of_carry tie hlow frac.isLt

/-- The sum of R100 fits 64 bits, so nothing wraps (R105). -/
theorem timestampNs_toNat (tie : TsTie) (whole frac : Word) :
    (timestampNs tie whole frac).toNat = whole.toNat * 1000000000 + fracNs tie frac.toNat := by
  have hwhole := whole.isLt
  have hfrac := fracNs_le tie frac.isLt
  rw [timestampNs, BitVec.toNat_ofNat, Nat.mod_eq_of_lt (by omega)]

theorem timestampNs_of_carry (tie : TsTie) (whole : Word) {frac : Word}
    (h : frac = 0xFFFFFFFE ∨ frac = 0xFFFFFFFF) :
    (timestampNs tie whole frac).toNat = (whole.toNat + 1) * 1000000000 := by
  rw [timestampNs_toNat, (fracNs_eq_carry_iff tie frac).2 h]
  omega

theorem timestampNs_le (tie : TsTie) (whole frac : Word) :
    (timestampNs tie whole frac).toNat ≤ 4294967296000000000 := by
  have hwhole := whole.isLt
  have hfrac := fracNs_le tie frac.isLt
  rw [timestampNs_toNat]
  omega

theorem timestampNs_zero (tie : TsTie) : (timestampNs tie 0 0).toNat = 0 := by
  rw [timestampNs_toNat, fracNs_below (by decide)]
  rfl

/-- Settles O14: the carry's two fractions from the rounding's bound, the timestamp's range from the sum
that does not wrap. -/
theorem timestampRangeIsExact : Obligations.TimestampRangeIsExact := by
  intro tie whole frac
  have hrange := timestampNs_le tie whole frac
  refine ⟨fracNs_le tie frac.isLt, fracNs_eq_carry_iff tie frac, ?_, timestampNs_of_carry tie whole,
    hrange, by omega, timestampNs_zero tie, timestampNs_of_carry tie _ (.inr rfl)⟩
  rintro rfl
  exact fracNs_below (frac := 4294967293) (by decide)

/-! ## TS.CONV -/

/-- Settles O11: the value does not wrap, and each case of the remainder is one of R100's rules. -/
theorem tsConvRoundsToNearest : Obligations.TsConvRoundsToNearest := by
  intro s
  refine ⟨_, fracNs s.params.tsTie s.tsFrac.toNat, exec_tsConv s, rfl, rfl,
    timestampNs_toNat _ _ _, fracNs_above, fracNs_below, ?_, ?_⟩
  · intro htie hsetting
    rw [hsetting, fracNs_tie_halfUp htie]
  · intro htie hsetting
    rw [hsetting, fracNs_tie_halfEven htie]

/-- Settles O12: the sum does not wrap, and half up is one expression. -/
theorem halfUpTimestampClosedForm : Obligations.HalfUpTimestampClosedForm := by
  intro whole frac
  rw [timestampNs_toNat, fracNs_halfUp]

/-! ## Exact ties -/

/-- R102: `frac · 10^9` leaves 2^31 modulo 2^32 exactly when `frac · 1953125` leaves 2^22 modulo 2^23, and
multiplication by the odd 1953125, which has an inverse there, keeps 2^22. -/
theorem tie_iff (frac : Nat) :
    frac * 1000000000 % 4294967296 = 2147483648 ↔ frac % 8388608 = 4194304 := by
  have hcancel : 512 * (frac * 1953125 % 8388608) = 512 * 4194304 ↔
      frac * 1953125 % 8388608 = 4194304 := Nat.mul_left_cancel_iff (by decide)
  rw [remainder_eq]
  refine hcancel.trans ⟨fun h => ?_, fun h => ?_⟩
  · rw [mod_eq_of_scaled, h]
  · rw [← Nat.mod_mul_mod, h]

theorem tie_iff_listed (frac : Word) :
    frac.toNat % 8388608 = 4194304 ↔ ∃ k : Fin 512, frac.toNat = k * 8388608 + 4194304 := by
  have hfrac := frac.isLt
  constructor
  · intro h
    exact ⟨⟨frac.toNat / 8388608, by omega⟩, by dsimp only; omega⟩
  · rintro ⟨k, hk⟩
    omega

/-- Settles O13: off the ties every setting is half up; at a tie both are R100's last two rules. -/
theorem timestampTiesAreTheListedFractions : Obligations.TimestampTiesAreTheListedFractions := by
  intro frac
  have htie := tie_iff frac.toNat
  exact ⟨htie, tie_iff_listed frac,
    fun h => (fracNs_eq_halfUp_of_not_tie .halfEven (mt htie.1 h)).symm,
    fun h => fracNs_halfUp_of_tie (htie.2 h),
    fracNs_tie_halfUp (by decide), fracNs_tie_halfEven (by decide)⟩

/-! ## The double-precision computation -/

/-- A multiple of its own unit in the last place is exact in binary64. -/
theorem binary64Round_of_dvd {m : Nat} (h : 2 ^ (Nat.log2 m + 1 - 53) ∣ m) : binary64Round m = m := by
  have hpos : 0 < 2 ^ (Nat.log2 m + 1 - 53) := Nat.two_pow_pos _
  unfold binary64Round
  dsimp only
  rw [Nat.mod_eq_zero_of_dvd h, if_neg (Nat.not_lt_zero _), if_pos hpos, Nat.div_mul_cancel h]

/-- A significand of 53 bits, scaled by a power of two, is exact in binary64. -/
theorem binary64Round_mul_two_pow {k : Nat} (e : Nat) (hk : k < 2 ^ 53) :
    binary64Round (k * 2 ^ e) = k * 2 ^ e := by
  apply binary64Round_of_dvd
  by_cases hzero : k * 2 ^ e = 0
  · rw [hzero]
    exact Nat.dvd_zero _
  · have hlt : k * 2 ^ e < 2 ^ (53 + e) := by
      rw [Nat.pow_add]
      exact Nat.mul_lt_mul_of_pos_right hk (Nat.two_pow_pos e)
    have hlog := (Nat.log2_lt hzero).2 hlt
    exact Nat.dvd_trans (Nat.pow_dvd_pow 2 (by omega)) (Nat.dvd_mul_left _ _)

theorem binary64Round_frac {frac : Nat} (h : frac < 4294967296) : binary64Round frac = frac := by
  simpa using binary64Round_mul_two_pow (k := frac) 0 (by omega)

/-- 10^9 = 1953125 · 2^9 has 21 significant bits, so its product with a 32-bit fraction has at most 53 and
loses nothing: the error that R103 bounds is 0. -/
theorem binary64Round_product {frac : Nat} (h : frac < 4294967296) :
    binary64Round (frac * 1000000000) = frac * 1000000000 := by
  have hfactor : frac * 1000000000 = frac * 1953125 * 2 ^ 9 := by omega
  rw [hfactor]
  exact binary64Round_mul_two_pow 9 (by omega)

/-- Settles O15: neither the fraction nor the product is rounded, so both forms round the same number. -/
theorem doublePrecisionAgrees : Obligations.DoublePrecisionAgrees := by
  intro tie frac
  have hfrac := binary64Round_frac frac.isLt
  refine ⟨hfrac, ?_⟩
  rw [fracNsDouble, fracNs, hfrac, binary64Round_product frac.isLt]

end Sys2Proof.Machine
end

section
/-! PROOFS. The Ethernet + VLAN stage, one operation at a time, with the entries and skips that it shares with
the stages after it: what each operation answers, and which one the decoder selects next (R108 to R114). -/

namespace Sys2Proof.Machine

/-! ## The next operation -/

/-- The fetch and the decode of a step, without its execution. -/
theorem nextOp_of_decode {s : State} {sel : Selector} {i : Instr} (hfetch : fetch s s.point = .ok sel)
    (hdecode : decode s.params sel = .ok i) : nextOp s = some i := by
  simp only [nextOp, opAt, hfetch, hdecode]

theorem fetch_ethType {s : State} {e : Half} (he : s.dp.ethertype = some e) :
    fetch s .ethType = .ok ⟨.ethType, s.cfgUdp, bytesOf16 e⟩ := by
  simp only [fetch, selectorBytes, regBytes, he]

theorem fetch_ethInner {s : State} {e : Half} (he : s.dp.ethertype = some e) :
    fetch s .ethInner = .ok ⟨.ethInner, s.cfgUdp, bytesOf16 e⟩ := by
  simp only [fetch, selectorBytes, regBytes, he]

/-- The outer dispatch reads the register that ETH.HDR wrote (R61). -/
theorem nextOp_advance_ethType {d : Datapath} {e : Half} (he : d.ethertype = some e) (s : State) :
    nextOp (advance d .ethType s) = some (decodeEthertype s.params e) :=
  nextOp_of_decode (fetch_ethType (s := advance d .ethType s) he) (decode_ethType s.cfgUdp e)

/-- The inner dispatch reads the register that ETH.VLAN wrote over it (R62). -/
theorem nextOp_advance_ethInner {d : Datapath} {e : Half} (he : d.ethertype = some e) (s : State) :
    nextOp (advance d .ethInner s) = some (decodeInnerEthertype s.params e) :=
  nextOp_of_decode (fetch_ethInner (s := advance d .ethInner s) he) (decode_ethInner s.cfgUdp e)

theorem nextOp_goto_ip4Hdr (q : Seq) (s : State) : nextOp (goto q .ip4Hdr s) = some .ip4Hdr :=
  nextOp_of_decode rfl rfl

theorem nextOp_goto_ip6Hdr (q : Seq) (s : State) : nextOp (goto q .ip6Hdr s) = some .ip6Hdr :=
  nextOp_of_decode rfl rfl

theorem nextOp_goto_tcpHdr (q : Seq) (s : State) : nextOp (goto q .tcpHdr s) = some .tcpHdr :=
  nextOp_of_decode rfl rfl

theorem nextOp_goto_udpHdr (q : Seq) (s : State) : nextOp (goto q .udpHdr s) = some .udpHdr :=
  nextOp_of_decode rfl rfl

/-! ## The shapes of the answers -/

theorem answers_skip {i : Instr} {r : SkipReason} {s : State}
    (hexec : exec i s = .next (raiseSkip r s)) : ∃ t, exec i s = .next t ∧ skipsTo r s t :=
  ⟨_, hexec, skipsTo_raiseSkip r s⟩

/-- `goto` changes `seq` and the model's own `point` (R74). -/
theorem answers_goto {i o : Instr} {q : Seq} {p : Point} {s : State}
    (hexec : exec i s = .next (goto q p s)) (hop : nextOp (goto q p s) = some o) :
    ∃ t, exec i s = .next t ∧ t = { s with seq := q, point := t.point } ∧ nextOp t = some o :=
  ⟨_, hexec, rfl, hop⟩

/-! ## ETH.HDR and ETH.VLAN -/

/-- A read of bytes that `Need` has checked goes on with their value (R36, R37). -/
theorem need_memRead_enough {s : State} {o n a l : Nat} (hin : o + n ≤ s.frameLen.toNat)
    (hfield : a + l ≤ o + n) (k : Nat → Result) :
    need s o n (memRead s a l k) = k (s.frame.beValue a l) := by
  rw [need_enough hin, memRead_inside (hfield.trans hin)]

/-- The ethertype in the two bytes at `o`. -/
def Memory.ethertypeAt (m : Memory) (o : Nat) : Half := BitVec.ofNat 16 (m.beValue o 2)

theorem Memory.ethertypeAt_toNat (m : Memory) (o : Nat) :
    (m.ethertypeAt o).toNat = (m.read o).toNat * 256 + (m.read (o + 1)).toNat := by
  rw [Memory.ethertypeAt, ofNat_beValue_two_toNat, Memory.beValue_two]

theorem exec_ethHdr_short {s : State} (h : s.frameLen.toNat < 14) :
    exec .ethHdr s = .next (raiseSkip .frameShort s) := need_short h _

theorem exec_ethHdr_reads {s : State} (h : 14 ≤ s.frameLen.toNat) :
    exec .ethHdr s = .next (advance
      { s.dp with ethertype := some (s.frame.ethertypeAt 12), cur := some 14, vlan := some false }
      .ethType s) := need_memRead_enough h (by decide) _

theorem exec_ethVlan_short {s : State} (h : s.frameLen.toNat < 18) :
    exec .ethVlan s = .next (raiseSkip .frameShort s) := need_short h _

theorem exec_ethVlan_reads {s : State} (h : 18 ≤ s.frameLen.toNat) :
    exec .ethVlan s = .next (advance
      { s.dp with ethertype := some (s.frame.ethertypeAt 16), cur := some 18, vlan := some true }
      .ethInner s) := need_memRead_enough h (by decide) _

/-- Settles O16: both sides of the length check; on the long side the outer dispatch follows. -/
theorem ethHdrReadsTheEthertype : Obligations.EthHdrReadsTheEthertype := by
  intro s
  refine ⟨fun hshort => answers_skip (exec_ethHdr_short hshort), fun hlong => ?_⟩
  exact ⟨_, s.frame.ethertypeAt 12, exec_ethHdr_reads hlong, s.frame.ethertypeAt_toNat 12, rfl,
    nextOp_advance_ethType rfl s⟩

/-- Settles O17: both sides of the length check; on the long side the inner dispatch follows, which does not
unwrap. -/
theorem ethVlanUnwrapsOneTag : Obligations.EthVlanUnwrapsOneTag := by
  intro s
  refine ⟨fun hshort => answers_skip (exec_ethVlan_short hshort), fun hlong => ?_⟩
  exact ⟨_, s.frame.ethertypeAt 16, exec_ethVlan_reads hlong, s.frame.ethertypeAt_toNat 16, rfl,
    nextOp_advance_ethInner rfl s⟩

/-! ## The rows that enter a stage and the rows that skip -/

/-- Settles O18: each operation is a `goto` to a point that one operation stands at. -/
theorem dispatchEntersTheNextStage : Obligations.DispatchEntersTheNextStage := by
  intro s
  refine ⟨?ethIpv4, ?ethIpv4Inner, ?ethIpv6, ?ethIpv6Inner, ?ip4Tcp, ?ip4Udp⟩
  case ethIpv4 => exact answers_goto rfl (nextOp_goto_ip4Hdr .ipv4 s)
  case ethIpv4Inner => exact answers_goto rfl (nextOp_goto_ip4Hdr .ipv4 s)
  case ethIpv6 => exact answers_goto rfl (nextOp_goto_ip6Hdr .ipv6 s)
  case ethIpv6Inner => exact answers_goto rfl (nextOp_goto_ip6Hdr .ipv6 s)
  case ip4Tcp => exact answers_goto rfl (nextOp_goto_tcpHdr .tcp s)
  case ip4Udp => exact answers_goto rfl (nextOp_goto_udpHdr .udp s)

/-- Settles O19: each operation raises its skip at once, whatever value selected it. -/
theorem unrecognisedValuesSkip : Obligations.UnrecognisedValuesSkip := by
  intro s
  refine ⟨?ethOther, ?ethOtherInner, ?ethQinq, ?ip4Other, ?ip6Other⟩
  case ethOther => exact fun _ => answers_skip rfl
  case ethOtherInner => exact fun _ => answers_skip rfl
  case ethQinq => exact answers_skip rfl
  case ip4Other => exact fun _ => answers_skip rfl
  case ip6Other => exact fun _ => answers_skip rfl

end Sys2Proof.Machine
end

section
/-! PROOFS. The IPv4 stage, one operation at a time: what each operation answers, and which one the decoder
selects next (R117 to R126). The stage as a whole is the run of the stages' part above (R116). -/

namespace Sys2Proof.Machine

/-! ## The stage as a whole -/

/-- Settles O56: from the stage's entry its points, each with its own bound, end with R116's pseudocode. -/
theorem ipv4StageRunsItsPseudocode : Obligations.Ipv4StageRunsItsPseudocode := by
  intro s ip hrst hseq hpoint hcur hplace
  obtain ⟨n, t, hn, hrun, -, hend⟩ := ip4Hdr_ends ⟨hrst, hseq, hpoint⟩ hcur hplace
  exact ⟨n, t, hn, hrun, hend⟩

/-! ## The shared shapes -/

/-- `x[reg]` of a register that holds a value (R11). -/
theorem withReg_holds {α : Type} {r : Reg} {v : Option α} {x : α} (hv : v = some x)
    (k : α → Result) : withReg r v k = k x := by rw [hv, withReg_some]

/-- An operation inside a stage changes the datapath and the model's own `point`. -/
theorem answers_advance {i o : Instr} {d : Datapath} {p : Point} {s : State}
    (hexec : exec i s = .next (advance d p s)) (hop : nextOp (advance d p s) = some o) :
    ∃ t, exec i s = .next t ∧ t = { s with dp := d, point := t.point } ∧ nextOp t = some o :=
  ⟨_, hexec, rfl, hop⟩

theorem fetch_ip4Proto {s : State} {p : Byte} (hp : s.dp.proto = some p) :
    fetch s .ip4Proto = .ok ⟨.ip4Proto, s.cfgUdp, [p]⟩ := by
  simp only [fetch, selectorBytes, regBytes, hp]

/-- The protocol dispatch reads the register that IP4.HDR wrote (R63). -/
theorem nextOp_advance_ip4Proto {d : Datapath} {p : Byte} (hp : d.proto = some p) (s : State) :
    nextOp (advance d .ip4Proto s) = some (decodeProto s.params s.cfgUdp p) :=
  nextOp_of_decode (fetch_ip4Proto (s := advance d .ip4Proto s) hp) (decode_ip4Proto s.cfgUdp p)

/-! ## The fields that the stage stores -/

theorem Memory.beValue_four (m : Memory) (o : Nat) :
    m.beValue o 4 = (m.read o).toNat * 16777216 + (m.read (o + 1)).toNat * 65536 +
      (m.read (o + 2)).toNat * 256 + (m.read (o + 3)).toNat := by
  simp only [Memory.beValue, Nat.add_zero]
  omega

/-- An address in the record is the number its four bytes give (R34, R121). -/
theorem addrOf_beValue_toNat (m : Memory) (o : Nat) :
    (addrOf (m.beValue o 4)).toNat =
      (m.read o).toNat * 16777216 + (m.read (o + 1)).toNat * 65536 +
      (m.read (o + 2)).toNat * 256 + (m.read (o + 3)).toNat := by
  rw [addrOf_toNat (m.beValue_four_lt o), m.beValue_four]

/-- The total length in the IPv4 header at `ip`. -/
def Memory.totalLenAt (m : Memory) (ip : Nat) : Half := BitVec.ofNat 16 (m.beValue (ip + 2) 2)

theorem Memory.totalLenAt_toNat (m : Memory) (ip : Nat) :
    (m.totalLenAt ip).toNat = (m.read (ip + 2)).toNat * 256 + (m.read (ip + 3)).toNat := by
  rw [Memory.totalLenAt, ofNat_beValue_two_toNat, Memory.beValue_two]

/-- The datapath with the two lengths of IP4.SEGLEN (R122). -/
def Datapath.withLengths (d : Datapath) (total : Half) (ihl : BitVec 7) : Datapath :=
  { d with totalLen := some total, segLen := some ((total.toNat : Int) - ihl.toNat) }

/-! ## What each operation answers -/

section Answers

variable {s : State} {ip : Half} {ihl : BitVec 7}

theorem exec_ip4Hdr_short (hcur : s.dp.cur = some ip) (hshort : s.frameLen.toNat < ip.toNat + 20) :
    exec .ip4Hdr s = .next (raiseSkip .frameShort s) :=
  (withReg_holds hcur _).trans (need_short hshort _)

/-- IP4.HDR reads two bytes of the header that `Need` has checked (R117). -/
theorem exec_ip4Hdr_reads (hcur : s.dp.cur = some ip) (hin : ip.toNat + 20 ≤ s.frameLen.toNat) :
    exec .ip4Hdr s = .next (advance
      { s.dp with
        ihlBytes := some (ihlBytesOf (s.frame.beValue ip.toNat 1))
        proto := some (s.frame.read (ip.toNat + 9)) }
      (if s.params.otherProto (s.frame.read (ip.toNat + 9)) then .ip4Proto else .ip4Flags) s) := by
  rw [← ofNat_beValue_one s.frame (ip.toNat + 9)]
  exact (withReg_holds hcur _).trans
    ((need_memRead_enough hin (by omega) _).trans (memRead_inside (by omega) _))

/-- IP4.MF decides by bit 5 of the flags byte alone (R119). -/
theorem exec_ip4Mf (hcur : s.dp.cur = some ip) (hin : ip.toNat + 7 ≤ s.frameLen.toNat) {mf : Bool}
    (hmf : (s.frame.read (ip.toNat + 6)).getLsbD 5 = mf) :
    exec .ip4Mf s = .next
      (if mf then raiseFatal .ipv4Mf (advance { s.dp with mf := some mf } .ip4Ihl s)
      else advance { s.dp with mf := some mf } .ip4Ihl s) := by
  rw [← hmf, ← mfOf_beValue]
  exact (withReg_holds hcur _).trans (memRead_inside (by omega) _)

/-- IP4.IHL is one check, of a parameter and a register (R120). -/
theorem exec_ip4Ihl (hihl : s.dp.ihlBytes = some ihl) :
    exec .ip4Ihl s = .next
      (if s.params.strictHdrLen ∧ ihl.toNat < 20 then raiseSkip .badHdrLen s
      else advance s.dp .ip4Addr s) := withReg_holds hihl _

/-- IP4.ADDR writes the record and no register (R121). -/
theorem exec_ip4Addr (hcur : s.dp.cur = some ip) (hin : ip.toNat + 20 ≤ s.frameLen.toNat) :
    exec .ip4Addr s = .next { s with
      out := { s.out with
        srcAddr := addrOf (s.frame.beValue (ip.toNat + 12) 4)
        dstAddr := addrOf (s.frame.beValue (ip.toNat + 16) 4) }
      point := .ip4SegLen } :=
  (withReg_holds hcur _).trans
    ((memRead_inside (by omega) _).trans (memRead_inside (by omega) _))

/-- IP4.SEGLEN writes both lengths and then checks the sign of their difference (R122). -/
theorem exec_ip4SegLen (hcur : s.dp.cur = some ip) (hihl : s.dp.ihlBytes = some ihl)
    (hin : ip.toNat + 4 ≤ s.frameLen.toNat) :
    exec .ip4SegLen s = .next
      (if ((s.frame.totalLenAt ip.toNat).toNat : Int) - ihl.toNat < 0 then
        raiseSkip .negativeLength
          (advance (s.dp.withLengths (s.frame.totalLenAt ip.toNat) ihl) .ip4TOff s)
      else advance (s.dp.withLengths (s.frame.totalLenAt ip.toNat) ihl) .ip4TOff s) := by
  rw [Datapath.withLengths, Memory.totalLenAt, ofNat_beValue_two_toNat]
  exact (withReg_holds hcur _).trans
    ((withReg_holds hihl _).trans (memRead_inside (by omega) _))

/-- IP4.TOFF writes one register; the protocol dispatch follows (R123). -/
theorem exec_ip4TOff (hcur : s.dp.cur = some ip) (hihl : s.dp.ihlBytes = some ihl) :
    exec .ip4TOff s = .next (advance
      { s.dp with tOff := some (BitVec.ofNat 16 (ip.toNat + ihl.toNat)) } .ip4Proto s) :=
  (withReg_holds hcur _).trans (withReg_holds hihl _)

theorem exec_ip4UdpOff_skips (h : s.params.udpOffAsTcp = false) :
    exec .ip4UdpOff s = .next (raiseSkip .udpDisabled s) :=
  congrArg _ (if_neg (Bool.eq_false_iff.1 h))

theorem exec_ip4UdpOff_entersTcp (h : s.params.udpOffAsTcp = true) :
    exec .ip4UdpOff s = .next (goto .tcp .tcpHdr s) := congrArg _ (if_pos h)

end Answers

/-! ## IP4.HDR, IP4.MF and IP4.IHL -/

/-- Settles O20: both sides of the length check; on the long side the protocol filter decides which point
follows. -/
theorem ip4HdrReadsLengthAndProtocol : Obligations.Ip4HdrReadsLengthAndProtocol := by
  intro s ip hcur
  refine ⟨fun hshort => answers_skip (exec_ip4Hdr_short hcur hshort), fun hin => ?_⟩
  refine ⟨_, _, exec_ip4Hdr_reads hcur hin, ihlBytesOf_beValue _ _, rfl,
    fun htcp hudp => ?other, fun hknown => ?known⟩
  case other =>
    rw [if_pos (otherProto_iff.2 ⟨htcp, hudp⟩), nextOp_advance_ip4Proto rfl, decodeProto, if_neg htcp,
      if_neg hudp]
  case known =>
    have hpass : ¬ s.params.otherProto (s.frame.read (ip.toNat + 9)) = true := fun hother =>
      have ⟨htcp, hudp⟩ := otherProto_iff.1 hother
      hknown.elim htcp hudp
    rw [if_neg hpass]
    exact nextOp_of_decode rfl rfl

/-- Settles O21: the two values of the flag. -/
theorem ip4MfAbortsOnAFragment : Obligations.Ip4MfAbortsOnAFragment := by
  intro s ip hcur hin
  exact ⟨fun hset => ⟨_, exec_ip4Mf hcur hin hset, rfl⟩,
    fun hclear => answers_advance (exec_ip4Mf hcur hin hclear) (nextOp_of_decode rfl rfl)⟩

/-- Settles O22: the check of R120 holds or it does not. -/
theorem ip4IhlChecksOnlyWhenStrict : Obligations.Ip4IhlChecksOnlyWhenStrict := by
  intro s ihl hihl
  refine ⟨fun hstrict hshort => ?skips, fun hpass => ?goesOn⟩
  case skips => exact answers_skip ((exec_ip4Ihl hihl).trans (congrArg _ (if_pos ⟨hstrict, hshort⟩)))
  case goesOn =>
    have hcheck : ¬ (s.params.strictHdrLen = true ∧ ihl.toNat < 20) := fun ⟨hstrict, hshort⟩ =>
      hpass.elim (fun hlax => Bool.eq_false_iff.1 hlax hstrict) (not_le.2 hshort)
    exact answers_advance ((exec_ip4Ihl hihl).trans (congrArg _ (if_neg hcheck)))
      (nextOp_of_decode rfl rfl)

/-! ## IP4.ADDR, IP4.SEGLEN and IP4.TOFF -/

/-- Settles O23: the two addresses at their offsets. -/
theorem ip4AddrWritesBothAddresses : Obligations.Ip4AddrWritesBothAddresses := by
  intro s ip hcur hin
  exact ⟨_, exec_ip4Addr hcur hin, nextOp_of_decode rfl rfl, rfl,
    addrOf_beValue_toNat s.frame (ip.toNat + 12), addrOf_beValue_toNat s.frame (ip.toNat + 16)⟩

/-- Settles O24: the sign of the integer difference is the order of the two lengths. -/
theorem ip4SegLenSubtractsTheHeader : Obligations.Ip4SegLenSubtractsTheHeader := by
  intro s ip ihl hcur hihl hin
  refine ⟨_, s.frame.totalLenAt ip.toNat, exec_ip4SegLen hcur hihl hin,
    s.frame.totalLenAt_toNat ip.toNat, fun hshort => ?skips, fun hfits => ?goesOn⟩
  case skips =>
    rw [if_pos (by omega)]
    rfl
  case goesOn =>
    rw [if_neg (by omega)]
    exact ⟨rfl, nextOp_of_decode rfl rfl⟩

/-- Settles O25: the sum does not wrap, and the dispatch reads the protocol that IP4.HDR left. -/
theorem ip4TOffSkipsTheHeader : Obligations.Ip4TOffSkipsTheHeader := by
  intro s ip ihl hcur hihl hfits
  have hoff : (BitVec.ofNat 16 (ip.toNat + ihl.toNat)).toNat = ip.toNat + ihl.toNat :=
    (BitVec.toNat_ofNat _ _).trans (Nat.mod_eq_of_lt hfits)
  refine ⟨_, _, exec_ip4TOff hcur hihl, hoff, rfl, fun _ _ => by omega, fun p hp htcp => ?tcp,
    fun p hp hne hudp => ?udp⟩
  case tcp => exact (nextOp_advance_ip4Proto hp s).trans (congrArg some (if_pos htcp))
  case udp =>
    exact (nextOp_advance_ip4Proto hp s).trans (congrArg some ((if_neg hne).trans (if_pos hudp)))

/-! ## IP4.UDP_OFF -/

/-- Settles O26: the two values of the parameter. -/
theorem ip4UdpOffSkipsOrParsesAsTcp : Obligations.Ip4UdpOffSkipsOrParsesAsTcp := by
  intro s
  exact ⟨fun hoff => answers_skip (exec_ip4UdpOff_skips hoff),
    fun hon => answers_goto (exec_ip4UdpOff_entersTcp hon) (nextOp_goto_tcpHdr .tcp s)⟩

end Sys2Proof.Machine
end

section
/-! PROOFS. The IPv6 stage, one operation at a time, and what any step of it can do: it reads the next header,
skips or aborts, and none of these writes `out` (R128 to R135). -/

namespace Sys2Proof.Machine

/-! ## The shape of an abort, and the next operation -/

theorem answers_fatal {i : Instr} {r : FatalReason} {s : State}
    (hexec : exec i s = .next (raiseFatal r s)) : ∃ t, exec i s = .next t ∧ abortsTo r s t :=
  ⟨_, hexec, abortsTo_raiseFatal r s⟩

theorem fetch_ip6Nh {s : State} {nh : Byte} (hnh : s.dp.nh = some nh) :
    fetch s .ip6Nh = .ok ⟨.ip6Nh, s.cfgUdp, [nh]⟩ := by
  simp only [fetch, selectorBytes, regBytes, hnh]

/-- The next header's dispatch reads the register that IP6.HDR wrote (R64). -/
theorem nextOp_advance_ip6Nh {d : Datapath} {nh : Byte} (hnh : d.nh = some nh) (s : State) :
    nextOp (advance d .ip6Nh s) = some (decodeNh s.params nh) :=
  nextOp_of_decode (fetch_ip6Nh (s := advance d .ip6Nh s) hnh) (decode_ip6Nh s.cfgUdp nh)

/-! ## IP6.HDR and the fatal next headers -/

section Answers

variable {s : State} {ip : Half}

theorem exec_ip6Hdr_short (hcur : s.dp.cur = some ip) (hshort : s.frameLen.toNat < ip.toNat + 40) :
    exec .ip6Hdr s = .next (raiseSkip .frameShort s) :=
  (withReg_holds hcur _).trans (need_short hshort _)

/-- IP6.HDR reads one byte of the header that `Need` has checked (R128). -/
theorem exec_ip6Hdr_reads (hcur : s.dp.cur = some ip) (hin : ip.toNat + 40 ≤ s.frameLen.toNat) :
    exec .ip6Hdr s = .next
      (advance { s.dp with nh := some (s.frame.read (ip.toNat + 6)) } .ip6Nh s) := by
  rw [← ofNat_beValue_one s.frame (ip.toNat + 6)]
  exact (withReg_holds hcur _).trans (need_memRead_enough hin (by omega) _)

end Answers

/-- Settles O27: both sides of the length check; on the long side the decoder's tests follow, in R128's
order. -/
theorem ip6HdrReadsTheNextHeader : Obligations.Ip6HdrReadsTheNextHeader := by
  intro s ip hcur
  exact ⟨fun hshort => answers_skip (exec_ip6Hdr_short hcur hshort),
    fun hin => answers_advance (exec_ip6Hdr_reads hcur hin) (nextOp_advance_ip6Nh rfl s)⟩

/-- Settles O28: each operation raises its own reason at once. -/
theorem ip6FatalNextHeadersAbort : Obligations.Ip6FatalNextHeadersAbort := by
  intro s
  refine ⟨?ip6Tcp, ?ip6Hopopt, ?ip6Routing, ?ip6Fragment⟩
  case ip6Tcp => exact answers_fatal rfl
  case ip6Hopopt => exact answers_fatal rfl
  case ip6Routing => exact answers_fatal rfl
  case ip6Fragment => exact answers_fatal rfl

/-! ## The stage as a whole -/

/-- `t` follows `s` by one operation of the IPv6 stage. `StageStep`, which covers all stages, also allows a
write of `out`; here no case has one. -/
inductive Ipv6Step (s : State) : State → Prop where
  /-- Registers written, the next header's dispatch to follow. -/
  | reads (d : Datapath) : Ipv6Step s (advance d .ip6Nh s)
  /-- The transaction skips. -/
  | skips (r : SkipReason) : Ipv6Step s (raiseSkip r s)
  /-- The transaction aborts the run. -/
  | aborts (r : FatalReason) : Ipv6Step s (raiseFatal r s)

theorem exec_ip6Hdr_ipv6Step (s : State) : EveryNext (Ipv6Step s) (exec .ip6Hdr s) :=
  .withReg fun _ => .need (.skips _) (.memRead fun _ => .next (.reads _))

/-- Every row of the next header's dispatch ends the transaction (R129 to R133). -/
theorem exec_decodeNh_ipv6Step (P : Params) (nh : Byte) (s : State) :
    EveryNext (Ipv6Step s) (exec (decodeNh P nh) s) := by
  unfold decodeNh
  split_ifs
  · exact .next (.aborts .ipv6Tcp)
  · exact .next (.aborts .ipv6Hopopt)
  · exact .next (.aborts .ipv6Routing)
  · exact .next (.aborts .ipv6Fragment)
  · exact .next (.skips .ipv6Nh)

/-- A good state in the stage stands at one of its two points, at the dispatch with a next header read. -/
theorem ipv6Step_of_step {s : State} (g : GoodState s) (hr : s.rst = false) (hq : s.seq = .ipv6) :
    EveryNext (Ipv6Step s) (step s) := by
  have hparse : s.parsing = true := by simp [State.parsing, hq]
  obtain ⟨hp, hready⟩ := (stageReady_of_parsing hparse).1 g.ready
  rw [step_parsing hr hparse]
  obtain h | h := pointStage_ipv6 (hq ▸ hp) <;> rw [h] at hready ⊢
  · rw [stepAt_ip6Hdr]
    exact exec_ip6Hdr_ipv6Step s
  · obtain ⟨nh, hnh⟩ := Option.isSome_iff_exists.1 hready
    rw [stepAt_ip6Nh hnh]
    exact exec_decodeNh_ipv6Step s.params nh s

/-- Settles O53: each way of `Ipv6Step` keeps `out` and has its own place in the diagram of R73. -/
theorem ipv6NeverDelivers : Obligations.Ipv6NeverDelivers := by
  intro s t hinv hr hq h
  cases ipv6Step_of_step (inv_iff_goodState.1 hinv) hr hq t h with
  | reads d => exact ⟨rfl, .inl ⟨hq, rfl⟩⟩
  | skips r => exact ⟨rfl, .inr (.inl ⟨rfl, rfl⟩)⟩
  | aborts r => exact ⟨rfl, .inr (.inr ⟨rfl, rfl⟩)⟩

end Sys2Proof.Machine
end

section
/-! PROOFS. The TCP and UDP stages, one operation at a time: what each operation answers, and which one the
decoder selects next (R136 to R143). The stages as wholes are the runs of the stages' part above. -/

namespace Sys2Proof.Machine

/-! ## The stages as wholes -/

/-- Settles O54: from the stage's entry its points, each with its own bound, end with R136's pseudocode. -/
theorem tcpStageRunsItsPseudocode : Obligations.TcpStageRunsItsPseudocode := by
  intro s off seg hrst hseq hpoint htOff hplace hseg
  obtain ⟨n, t, hn, hrun, -, hend⟩ := tcpHdr_ends ⟨hrst, hseq, hpoint⟩ htOff hplace hseg
  exact ⟨n, t, hn, hrun, hend⟩

/-- Settles O55: from the stage's entry its points, each with its own bound, end with R139's pseudocode. -/
theorem udpStageRunsItsPseudocode : Obligations.UdpStageRunsItsPseudocode := by
  intro s off hrst hseq hpoint htOff hplace
  obtain ⟨n, t, hn, hrun, -, hend⟩ := udpHdr_ends ⟨hrst, hseq, hpoint⟩ htOff hplace
  exact ⟨n, t, hn, hrun, hend⟩

/-! ## The shared shapes -/

/-- A 16-bit field is the number its two bytes give (R34, R36). -/
theorem ofNat_beValue_two_eq_bytes (m : Memory) (o : Nat) :
    (BitVec.ofNat 16 (m.beValue o 2)).toNat =
      (m.read o).toNat * 256 + (m.read (o + 1)).toNat :=
  (ofNat_beValue_two_toNat m o).trans (m.beValue_two o)

/-- The datapath with the payload's length and offset (R138, R140). -/
def Datapath.withPayload (d : Datapath) (plen : Int) (o : Nat) : Datapath :=
  { d with plen := some plen, poff := some (BitVec.ofNat 16 o) }

/-- A 16-bit store of an offset that fits keeps it (R138, R140). -/
theorem toNat_ofNat_of_fits {o : Nat} (h : o < 65536) : (BitVec.ofNat 16 o).toNat = o :=
  (BitVec.toNat_ofNat o 16).trans (Nat.mod_eq_of_lt h)

/-- A 16-bit store of a length that fits keeps it (R143). -/
theorem toNat_ofInt_of_fits {v : Int} (h : 0 ≤ v) (hfits : v ≤ 65535) :
    ((BitVec.ofInt 16 v).toNat : Int) = v := by
  rw [BitVec.toNat_ofInt]
  omega

/-- TP.WRITE is selected by the stage that runs (R143). -/
theorem nextOp_advance_tpWrite {s : State} {k : Transport} (h : s.seq = stageOf k) (d : Datapath) :
    nextOp (advance d .tpWrite s) = some (.tpWrite k) := by
  have hdecode : decode s.params ⟨.tpWrite, s.cfgUdp, [stageKind s.seq]⟩ = .ok (.tpWrite k) := by
    rw [h]
    cases k <;> rfl
  exact nextOp_of_decode rfl hdecode

/-! ## What each operation answers -/

section Answers

variable {s : State} {off : Half}

theorem exec_tcpHdr_short (htOff : s.dp.tOff = some off)
    (hshort : s.frameLen.toNat < off.toNat + 20) :
    exec .tcpHdr s = .next (raiseSkip .frameShort s) :=
  (withReg_holds htOff _).trans (need_short hshort _)

/-- TCP.HDR writes nothing (R136). -/
theorem exec_tcpHdr_enough (htOff : s.dp.tOff = some off)
    (hin : off.toNat + 20 ≤ s.frameLen.toNat) :
    exec .tcpHdr s = .next (advance s.dp .tcpDoff s) :=
  (withReg_holds htOff _).trans (need_enough hin _)

theorem exec_udpHdr_short (htOff : s.dp.tOff = some off)
    (hshort : s.frameLen.toNat < off.toNat + 8) :
    exec .udpHdr s = .next (raiseSkip .frameShort s) :=
  (withReg_holds htOff _).trans (need_short hshort _)

/-- UDP.HDR reads two bytes of the header that `Need` has checked (R139). -/
theorem exec_udpHdr_reads (htOff : s.dp.tOff = some off)
    (hin : off.toNat + 8 ≤ s.frameLen.toNat) :
    exec .udpHdr s = .next (advance
      { s.dp with udpLen := some (BitVec.ofNat 16 (s.frame.beValue (off.toNat + 4) 2)) }
      .udpPayload s) :=
  (withReg_holds htOff _).trans (need_memRead_enough hin (by omega) _)

/-- TCP.DOFF writes the header length and then checks it (R137). -/
theorem exec_tcpDoff (htOff : s.dp.tOff = some off) (hin : off.toNat + 13 ≤ s.frameLen.toNat)
    {thl : BitVec 7} (hthl : thlOf (s.frame.beValue (off.toNat + 12) 1) = thl) :
    exec .tcpDoff s = .next
      (if s.params.strictHdrLen ∧ thl.toNat < 20 then
        raiseSkip .badHdrLen (advance { s.dp with thl := some thl } .tcpPayload s)
      else advance { s.dp with thl := some thl } .tcpPayload s) := by
  subst hthl
  exact (withReg_holds htOff _).trans (memRead_inside (by omega) _)

/-- TCP.PAYLOAD subtracts the header from the segment (R138). -/
theorem exec_tcpPayload {seg : Int} {thl : BitVec 7} (htOff : s.dp.tOff = some off)
    (hseg : s.dp.segLen = some seg) (hthl : s.dp.thl = some thl) :
    exec .tcpPayload s = .next
      (advance (s.dp.withPayload (seg - thl.toNat) (off.toNat + thl.toNat)) .tpNegLen s) :=
  (withReg_holds hseg _).trans ((withReg_holds hthl _).trans (withReg_holds htOff _))

/-- UDP.PAYLOAD reads no segment length (R140). -/
theorem exec_udpPayload {len : Half} (htOff : s.dp.tOff = some off)
    (hlen : s.dp.udpLen = some len) :
    exec .udpPayload s = .next
      (advance (s.dp.withPayload ((len.toNat : Int) - 8) (off.toNat + 8)) .tpNegLen s) :=
  (withReg_holds hlen _).trans (withReg_holds htOff _)

variable {plen : Int} {poff : Half}

/-- TP.NEGLEN is one check, of a register (R141). -/
theorem exec_tpNegLen (hplen : s.dp.plen = some plen) :
    exec .tpNegLen s = .next
      (if plen < 0 then raiseSkip .negativeLength s else advance s.dp .tpBounds s) :=
  withReg_holds hplen _

/-- TP.BOUNDS is one check, of a parameter, two registers and the frame's length (R142). -/
theorem exec_tpBounds (hplen : s.dp.plen = some plen) (hpoff : s.dp.poff = some poff) :
    exec .tpBounds s = .next
      (if s.params.payloadBoundsCheck ∧ (poff.toNat : Int) + plen > s.frameLen.toNat then
        raiseSkip .payloadBounds s
      else advance s.dp .tpWrite s) :=
  (withReg_holds hpoff _).trans (withReg_holds hplen _)

/-- TP.WRITE writes the record and no register (R143). -/
theorem exec_tpWrite (hplen : s.dp.plen = some plen) (hpoff : s.dp.poff = some poff)
    (k : Transport) :
    exec (.tpWrite k) s = .next { s with
      out := { s.out with
        kind := kindOf k
        payloadOff := poff
        payloadLen := BitVec.ofInt 16 plen
        length := BitVec.ofInt 16 plen }
      point := .deliver } :=
  (withReg_holds hpoff _).trans (withReg_holds hplen _)

end Answers

/-! ## TCP.HDR, UDP.HDR and TCP.DOFF -/

/-- Settles O29: both sides of each entry's length check. -/
theorem transportEntriesCheckTheHeader : Obligations.TransportEntriesCheckTheHeader := by
  intro s off htOff
  refine ⟨fun hshort => ?tcpShort, fun hin => ?tcpEnough, fun hshort => ?udpShort,
    fun hin => ?udpReads⟩
  case tcpShort => exact answers_skip (exec_tcpHdr_short htOff hshort)
  case tcpEnough =>
    exact answers_advance (exec_tcpHdr_enough htOff hin) (nextOp_of_decode rfl rfl)
  case udpShort => exact answers_skip (exec_udpHdr_short htOff hshort)
  case udpReads =>
    exact ⟨_, _, exec_udpHdr_reads htOff hin,
      ofNat_beValue_two_eq_bytes s.frame (off.toNat + 4), rfl, nextOp_of_decode rfl rfl⟩

/-- Settles O30: the check of R137 holds or it does not; the header length is stored either way. -/
theorem tcpDoffReadsTheDataOffset : Obligations.TcpDoffReadsTheDataOffset := by
  intro s off htOff hin
  refine ⟨_, _, exec_tcpDoff htOff hin rfl, thlOf_beValue s.frame (off.toNat + 12),
    fun hstrict hshort => ?skips, fun hpass => ?goesOn⟩
  case skips =>
    rw [if_pos ⟨hstrict, hshort⟩]
    exact skipsTo_raiseSkip _ _
  case goesOn =>
    rw [if_neg (not_and_of_not_or_not (hpass.imp Bool.eq_false_iff.1 not_lt.2))]
    exact ⟨rfl, nextOp_of_decode rfl rfl⟩

/-! ## TCP.PAYLOAD and UDP.PAYLOAD -/

/-- Settles O31: neither sum wraps, so the stored offset is the sum over the integers. -/
theorem payloadOffsetAndLength : Obligations.PayloadOffsetAndLength := by
  intro s off htOff
  refine ⟨fun seg thl hseg hthl hfits => ?tcp, fun len hlen hfits => ?udp⟩
  case tcp =>
    have hoff := toNat_ofNat_of_fits hfits
    exact ⟨_, _, exec_tcpPayload htOff hseg hthl, hoff, rfl, fun _ _ _ => by omega,
      nextOp_of_decode rfl rfl⟩
  case udp =>
    have hoff := toNat_ofNat_of_fits hfits
    exact ⟨_, _, exec_udpPayload htOff hlen, hoff, rfl, fun _ => by omega,
      nextOp_of_decode rfl rfl⟩

/-! ## TP.NEGLEN, TP.BOUNDS and TP.WRITE -/

/-- Settles O32: each of the two checks holds or it does not; past the second the running stage selects
TP.WRITE. -/
theorem payloadChecksSkip : Obligations.PayloadChecksSkip := by
  intro s plen hplen
  refine ⟨fun hneg => ?negative, fun hnonneg => ?nonnegative, fun poff hpoff hcheck hover => ?pastEnd,
    fun poff hpoff hpass => ?inside⟩
  case negative => exact answers_skip ((exec_tpNegLen hplen).trans (congrArg _ (if_pos hneg)))
  case nonnegative =>
    exact answers_advance ((exec_tpNegLen hplen).trans (congrArg _ (if_neg (not_lt.2 hnonneg))))
      (nextOp_of_decode rfl rfl)
  case pastEnd =>
    exact answers_skip ((exec_tpBounds hplen hpoff).trans (congrArg _ (if_pos ⟨hcheck, hover⟩)))
  case inside =>
    have hcheck := not_and_of_not_or_not (hpass.imp Bool.eq_false_iff.1 not_lt.2)
    exact ⟨_, (exec_tpBounds hplen hpoff).trans (congrArg _ (if_neg hcheck)), rfl,
      fun htcp => nextOp_advance_tpWrite (k := .tcp) htcp s.dp,
      fun hudp => nextOp_advance_tpWrite (k := .udp) hudp s.dp⟩

/-- Settles O33: a length that 16 bits hold is stored whole; the kinds differ in `out.kind` alone. -/
theorem transportWriteFillsTheRecord : Obligations.TransportWriteFillsTheRecord := by
  intro s plen poff hplen hpoff hnonneg hfits k
  have hlen := toNat_ofInt_of_fits hnonneg hfits
  refine ⟨_, _, exec_tpWrite hplen hpoff k, hlen, ?record, nextOp_of_decode rfl rfl, rfl, rfl, rfl⟩
  case record => cases k <;> rfl

end Sys2Proof.Machine
end

section
/-! PROOFS. Reset as a whole (R167), what SKIP and FATAL leave for the next request (R148, R149), and the
codes of the status registers (R145 to R147). -/

namespace Sys2Proof.Machine

/-! ## Reset -/

theorem integratorStep_asserts (s : State) :
    integratorStep true s = .next { resetBlock s with rst := true } := rfl

theorem integratorStep_releases (s : State) :
    integratorStep false s = .next { s with rst := false } := rfl

/-- Reset keeps the reset input. -/
theorem resetBlock_of_rst {s : State} (hr : s.rst = true) :
    resetBlock s = { resetBlock s with rst := true } := by
  simp only [resetBlock, hr]

/-- Settles O1: asserting reset leaves the reset block with the input asserted, where a step is a reset
once more. -/
theorem resetRestoresEveryValue : Obligations.ResetRestoresEveryValue := by
  intro s
  refine ⟨{ resetBlock s with rst := true }, integratorStep_asserts s, step_of_rst rfl, rfl, rfl, rfl, rfl,
    rfl, rfl, rfl, rfl, fun r hlen => ?accepts, fun hr => ?stays, integratorStep_releases _⟩
  case accepts => exact (acceptRefusal_eq_none _ r).2 ⟨rfl, rfl, rfl, hlen⟩
  case stays => exact (step_of_rst hr).trans (congrArg _ (resetBlock_of_rst hr))

/-! ## SKIP and FATAL -/

theorem acceptRefusal_aborted {s : State} (h : s.status.aborted = true) (r : Request) :
    acceptRefusal s r = some .requestWhileAborted := if_pos h

/-- Settles O8: a SKIP keeps the latches and frees the sequencer; a FATAL sets the first latch that R71's
precondition looks at. -/
theorem skipAndFatalWriteTheStatus : Obligations.SkipAndFatalWriteTheStatus := by
  intro s
  refine ⟨fun r => skipsTo_raiseSkip r s,
    fun r => ⟨abortsTo_raiseFatal r s, acceptRefusal_aborted rfl⟩,
    fun r q haborted hstopped hlen => ?accepts⟩
  case accepts => exact (acceptRefusal_eq_none _ q).2 ⟨haborted, hstopped, rfl, hlen⟩

/-! ## The codes -/

/-- R146 numbers its reasons in order from 1, so that a code gives its reason back. -/
theorem SkipReason.ofNat_code : Function.LeftInverse (fun c => ofNat (c.toNat - 1)) code := by
  intro r
  cases r <;> rfl

/-- R147 numbers its reasons in order from 17. -/
theorem FatalReason.ofNat_code : Function.LeftInverse (fun c => ofNat (c.toNat - 17)) code := by
  intro r
  cases r <;> rfl

theorem SkipReason.code_bit4 (r : SkipReason) : r.code.getLsbD 4 = false := by
  cases r <;> rfl

theorem FatalReason.code_bit4 (r : FatalReason) : r.code.getLsbD 4 = true := by
  cases r <;> rfl

theorem SkipReason.code_ne_zero (r : SkipReason) : r.code ≠ 0 := by
  cases r <;> decide

theorem FatalReason.code_ne_zero (r : FatalReason) : r.code ≠ 0 := by
  cases r <;> decide

/-- Bit 4 keeps the codes of the two tables apart. -/
theorem SkipReason.code_ne_fatal (r : SkipReason) (r' : FatalReason) : r.code ≠ r'.code := by
  intro h
  have hbit := r'.code_bit4
  rw [← h, r.code_bit4] at hbit
  cases hbit

theorem Reason.code_injective : Function.Injective Reason.code := by
  intro a b h
  cases a with
  | none =>
    cases b with
    | none => rfl
    | skip r => exact absurd h.symm r.code_ne_zero
    | fatal r => exact absurd h.symm r.code_ne_zero
  | skip r =>
    cases b with
    | none => exact absurd h r.code_ne_zero
    | skip r' => exact congrArg Reason.skip (SkipReason.ofNat_code.injective h)
    | fatal r' => exact absurd h (r.code_ne_fatal r')
  | fatal r =>
    cases b with
    | none => exact absurd h r.code_ne_zero
    | skip r' => exact absurd h.symm (r'.code_ne_fatal r)
    | fatal r' => exact congrArg Reason.fatal (FatalReason.ofNat_code.injective h)

/-- Settles O9: the tables row by row; the codes of each table are numbered in order, and bit 4 tells the
tables apart. -/
theorem outcomeAndReasonCodes : Obligations.OutcomeAndReasonCodes :=
  ⟨rfl, rfl, rfl, rfl, rfl, rfl, rfl, rfl, rfl, rfl, rfl, rfl, rfl, rfl, rfl, rfl, rfl, rfl, rfl,
    fun _ _ h => Reason.code_injective h, FatalReason.code_bit4, SkipReason.code_bit4⟩

end Sys2Proof.Machine
end
